-- ==== Sys2Proof/Word.lean ====
section
/-! DEFINITION. The word types of the J612 (00_scope.md, "Numbers that identify things") and the two
compound names the manual treats as one thing: a loan tag and the (title, version) of an image. -/

namespace Sys2Proof

/-- A byte of a frame, a register or the image store. -/
abbrev Byte := BitVec 8

/-- A station number 0..15. -/
abbrev Station := BitVec 4

/-- An order serial, assigned by the desk station. -/
abbrev OrderSerial := BitVec 32

/-- A cartridge serial, from the cartridge header. -/
abbrev CartSerial := BitVec 32

/-- A patron number. -/
abbrev Patron := BitVec 32

/-- A title number. -/
abbrev Title := BitVec 24

/-- An image version. -/
abbrev Version := BitVec 8

/-- A loan serial, the low 20 bits of a loan tag. -/
abbrev LoanSerial := BitVec 20

/-- A 16-bit frame check (R3). -/
abbrev Check16 := BitVec 16

/-- A 32-bit sector or directory check (R71). -/
abbrev Check32 := BitVec 32

/-- A socket of the rack, 0..7. -/
abbrev SocketNo := Fin 8

/-- A fetch stream or a serve stream, 0 or 1. -/
abbrev StreamNo := Fin 2

/-- A moment of the station's own clock, in bit times of the floor line (1/32 µs); DESIGN CHOICE, log 1. -/
abbrev Moment := Nat

/-- A loan tag: the owning station and the loan serial. -/
structure LoanTag where
  station : Station
  serial  : LoanSerial
  deriving DecidableEq, Repr

/-- The (title, version) that names an image. -/
structure ImageName where
  title   : Title
  version : Version
  deriving DecidableEq, Repr

end Sys2Proof
end

