-- ==== Sys2Proof/Syntax.lean ====
section
/-! DEFINITION. The commands of the J612: one constructor for each row of spec/opcode_table.json.

The table gives its rows no operands and no bits. Each constructor carries the moment `t` at which the
command happens, by the station's own clock (DESIGN CHOICE, log 1), and what the surroundings bring with
it: the bits of a frame, the bytes of a card, the status of a cartridge, the byte written at the panel. -/

namespace Sys2Proof

/-- What is present at a reset (R194, R195, R113, R173, R184): the straps, the configuration memory's
answer, and the present lines of the sockets, the gate and the chute. -/
structure ResetInputs where
  /-- STN0..STN3 -/
  straps  : Station
  /-- CFGSRC: `true` selects the configuration memory -/
  cfgSrc  : Bool
  /-- the bytes read on CFD; fewer than 159 where the read ends early -/
  image   : List Byte
  /-- the sockets whose present-detect line is active -/
  present : List SocketNo
  /-- the present-detect line of the gate -/
  gate    : Bool
  /-- the chute reader reports a container present -/
  chute   : Bool
  deriving DecidableEq, Repr

/-- What the image store memory has lost since it was last read (4.5: "A flash-backed store can lose a
bit while an image sits unused"): new contents of bytes and of check values, applied before a read
(DESIGN CHOICE, log 5). -/
structure StoreFade where
  bytes  : List (Nat × Byte)
  checks : List (Nat × Check32)
  deriving DecidableEq, Repr

/-- What the receiver sees on the line outside a frame end (R1's table of line events). -/
inductive LineSight where
  /-- a flag after idle, or after another flag: the line becomes busy -/
  | flag
  /-- bits other than idle that are no flag: after a flag, the start of frame content -/
  | content
  /-- seven or more ones with no frame content before them: the line is quiet again -/
  | quiet
  deriving DecidableEq, Repr

/-- The panel locations whose writes are plain (R185): status, argument 0..3 and data/event. -/
inductive LatchPlace where
  | status
  | argument (i : Fin 4)
  | data
  deriving DecidableEq, Repr

/-- The command codes that name no command (R202). -/
inductive UnknownCode where
  | c0 | c11 | c12 | c13 | c14 | c15
  deriving DecidableEq, Repr

/-- The two events of a panel command (R190): the panel writes it, `high` being the high four bits of the command
byte, and, while the command slot is Executing with it, the block that owns what it changes acts. Any other event can
come between the two (DESIGN CHOICE, log 14). -/
inductive CommandEvent where
  | write (high : BitVec 4)
  | act
  deriving DecidableEq, Repr

/-- The commands, in the table's order. -/
inductive Instr where
  | powerOnReset (t : Moment) (inp : ResetInputs)
  | warmReset (t : Moment) (inp : ResetInputs)
  /-- `bits`: the line bits after the opening flag, up to and including the closing flag or the seventh
  one of the abort (R1) -/
  | frameEnd (t : Moment) (bits : List Bool)
  | joiningQuietTimeout (t : Moment)
  | turnSlot (t : Moment)
  | collision (t : Moment)
  | frameComplete (t : Moment)
  | windowClose (t : Moment) (order : OrderSerial)
  | takeDeadline (t : Moment) (order : OrderSerial)
  | fetchSilenceTimeout (t : Moment) (x : StreamNo)
  | busyRetryTimeout (t : Moment) (x : StreamNo)
  | fetchSliceWritten (t : Moment) (x : StreamNo)
  | serveSliceRead (t : Moment) (x : StreamNo) (fade : StoreFade)
  | scrubExpiry (t : Moment)
  | scrubSectorRead (t : Moment) (fade : StoreFade)
  | socketPresent (t : Moment) (k : SocketNo)
  /-- `area`: the 11 bytes of the identity area (R201) -/
  | headerReadDone (t : Moment) (area : List Byte)
  | readLimitExpiry (t : Moment)
  | writeSlotFilled (t : Moment) (fade : StoreFade)
  | writePosted (t : Moment)
  | eraseCommandSent (t : Moment)
  /-- `sector`: the 65,536 bytes read back from the cartridge -/
  | sectorReadDone (t : Moment) (sector : List Byte) (fade : StoreFade)
  /-- `pass`: the status the cartridge signals -/
  | cartridgeReady (t : Moment) (k : SocketNo) (pass : Bool)
  | cartridgeDeadline (t : Moment) (k : SocketNo)
  | cartridgeRemove (t : Moment) (k : SocketNo)
  /-- `e`, here and below: the write of a panel command, or the act of its block (R190) -/
  | shelfAdd (t : Moment) (e : CommandEvent)
  | shelfWithdraw (t : Moment) (e : CommandEvent)
  | holdDeadline (t : Moment) (order : OrderSerial) (item : Nat)
  | pickDone (t : Moment) (e : CommandEvent)
  /-- `tag`: the loan whose card image the writer answers (DESIGN CHOICE, log 18) -/
  | cardDone (t : Moment) (tag : LoanTag)
  | cardFault (t : Moment) (tag : LoanTag)
  | cardDeadline (t : Moment)
  | cardRewrite (t : Moment) (e : CommandEvent)
  | containerWithdraw (t : Moment) (e : CommandEvent)
  | detection (t : Moment)
  | diverterAcknowledge (t : Moment)
  | sackChanged (t : Moment) (e : CommandEvent)
  | sackClose (t : Moment) (e : CommandEvent)
  | containerPresent (t : Moment)
  /-- `bits`: the 184 bits of the return face as the reader sees them, each byte least significant bit first
  (R201) -/
  | cardImageComplete (t : Moment) (bits : List Bool)
  | chuteReadFailure (t : Moment)
  | readDeadline (t : Moment)
  | routeDone (t : Moment)
  | returnKeyed (t : Moment) (e : CommandEvent)
  | pointerWrite (t : Moment) (byte : Byte)
  | recordWindowRead (t : Moment)
  | eventRead (t : Moment)
  | pause (t : Moment) (e : CommandEvent)
  | resume (t : Moment) (e : CommandEvent)
  /-- `high`: the high four bits of the command byte written (R190) -/
  | commandCodeUnknown (t : Moment) (code : UnknownCode) (high : BitVec 4)
  | registerWrite (t : Moment) (place : LatchPlace) (byte : Byte)
  | lineBusy (t : Moment) (sight : LineSight)
  | refusedWrite (t : Moment) (byte : Byte)
  | cardImageSent (t : Moment)
  deriving DecidableEq, Repr

end Sys2Proof
end

