-- ==== Sys2Proof/WellFormed.lean ====
section
/-! DEFINITION. Which commands are well formed: what the surroundings bring has the size that the
manual gives it. -/

namespace Sys2Proof

/-- The line bits are frame content followed by a flag (zero, six ones, zero) or by the seven ones of an abort: a flag
or seven ones with no content before them end no frame (R1). -/
def endsFrame (bits : List Bool) : Bool :=
  match bits.reverse with
  | false :: true :: true :: true :: true :: true :: true :: false :: _ :: _ => true
  | true :: true :: true :: true :: true :: true :: true :: _ :: _ => true
  | _ => false

/-- Every lost byte and check value lies in the largest store that R70 allows: 4096 chunks of 64 sectors
of 65,536 bytes. -/
def StoreFade.wellFormed (f : StoreFade) : Bool :=
  f.bytes.all (fun c => c.1 < 4096 * 64 * 65536) && f.checks.all (fun c => c.1 < 4096 * 64)

/-- A configuration memory answers with at most the 159 bytes of its image (R202). -/
def ResetInputs.wellFormed (r : ResetInputs) : Bool := r.image.length ≤ 159

/-- The well-formed commands. -/
def Instr.wellFormed : Instr → Bool
  | .powerOnReset _ inp => inp.wellFormed
  | .warmReset _ inp => inp.wellFormed
  | .frameEnd _ bits => endsFrame bits
  | .serveSliceRead _ _ fade => fade.wellFormed
  | .scrubSectorRead _ fade => fade.wellFormed
  | .writeSlotFilled _ fade => fade.wellFormed
  | .sectorReadDone _ sector fade => sector.length == 65536 && fade.wellFormed
  | .headerReadDone _ area => area.length == 11
  | .holdDeadline _ _ item => item < 8
  | .cardImageComplete _ bits => bits.length == 184
  | .joiningQuietTimeout _ | .turnSlot _ | .collision _ | .frameComplete _ | .windowClose _ _
  | .takeDeadline _ _ | .fetchSilenceTimeout _ _ | .busyRetryTimeout _ _ | .fetchSliceWritten _ _
  | .scrubExpiry _ | .socketPresent _ _ | .readLimitExpiry _ | .writePosted _ | .eraseCommandSent _
  | .cartridgeReady _ _ _ | .cartridgeDeadline _ _ | .cartridgeRemove _ _ | .shelfAdd _ _
  | .shelfWithdraw _ _ | .pickDone _ _ | .cardDone _ _ | .cardFault _ _ | .cardDeadline _
  | .cardRewrite _ _ | .containerWithdraw _ _ | .detection _ | .diverterAcknowledge _
  | .sackChanged _ _ | .sackClose _ _ | .containerPresent _ | .chuteReadFailure _ | .readDeadline _
  | .routeDone _ | .returnKeyed _ _ | .pointerWrite _ _ | .recordWindowRead _ | .eventRead _
  | .pause _ _ | .resume _ _ | .commandCodeUnknown _ _ _ | .registerWrite _ _ _ | .lineBusy _ _
  | .refusedWrite _ _ | .cardImageSent _ => true

end Sys2Proof
end

