-- ==== Sys2Proof/Config.lean ====
section
/-! DEFINITION. What the manual leaves open: free values. Each is an opaque constant without a body, so
no proof can rest on a value of it. -/

namespace Sys2Proof.Config

/-- The capacity in sectors of a cartridge whose header carries capacity class `cls` above 3: R92 gives
K for the classes 0 to 3 only. Free value; DESIGN CHOICE, log 16. -/
opaque oddCapacity (cls : Nat) : Nat

/-- The read limit, in clock units, of an access class above 3: the table of R94 ends at class 3. Free
value; DESIGN CHOICE, log 16. -/
opaque oddReadLimit (access : Nat) : Nat

/-- The program limit of an access class above 3 (R94). Free value; DESIGN CHOICE, log 16. -/
opaque oddProgramLimit (access : Nat) : Nat

/-- The group erase limit of an access class above 3 (R94). Free value; DESIGN CHOICE, log 16. -/
opaque oddEraseLimit (access : Nat) : Nat

/-- The address phases of a cartridge of capacity class `cls` above 3: R95 gives them for the classes 0 to 3 only. Free
value; DESIGN CHOICE, log 16. -/
opaque oddPhases (cls : Nat) : Nat

/-- Whether an erased-flag byte other than 0 and 1 counts as set (R201 gives 1 for set and 0 for clear).
Free value; DESIGN CHOICE, log 16. -/
opaque oddErasedFlag (byte : Byte) : Bool

/-- The size field of an INFO whose status (by its code) is not Present: R84 states a size for Present
only. Free value; DESIGN CHOICE, log 17. -/
opaque infoSize (status : Nat) : BitVec 16

/-- The order in which the offers of several blocks that hold refused frames are taken, at the n-th such race, as the
number of an arrangement (`Machine.arrange`): R15 says that the frame whose offer is taken first is accepted and not
whose that is. Free value; DESIGN CHOICE, log 8. -/
opaque offerOrder (race : Nat) : Nat

/-- Whether the slice of the write slot's sector that has the store port is over, at the n-th such question, with more
slices of the sector to come: R88 makes a read of a sector of 64 slice accesses, and no command reports the end of one of
them. Free value; DESIGN CHOICE, log 42. -/
opaque sliceOver (race : Nat) : Bool

/-- The four bytes by which the record window shows a moment (a deadline): R186 and R202 give no unit and
no origin. Free value; DESIGN CHOICE, log 15. -/
opaque windowMoment (m : Moment) : BitVec 32

/-- A byte of a window record after its last field: R202 gives the record's length and not these bytes.
Free value; DESIGN CHOICE, log 15. -/
opaque windowPad (table offset : Nat) : Byte

end Sys2Proof.Config
end

