-- ==== Sys2Proof/Machine/State.lean ====
section
/-! DEFINITION. The state of one J612: one structure for each of the twelve blocks of the block diagram
(00_scope.md), with everything that the block's chapter says it holds, and the queue of waiting commands.
`State.reset` is the state right after a power-on start. -/

namespace Sys2Proof.Machine

/-- A table of numbered positions: the occupied ones, in rising order of position. -/
abbrev Table (α : Type) := List (Nat × α)

/-- The image store memory: the bytes that differ from what an unlisted byte reads as, by address. -/
abbrev Memory := List Host.Cell

/-! ## Shared words of the manual -/

inductive Urgency where
  | normal | urgent
  deriving DecidableEq, Repr

inductive ItemKind where
  | audio | braille
  deriving DecidableEq, Repr

/-- One item of an OFFER or a HANDOVER (R200): `amount` is the size in sectors or the volume count. -/
structure Item where
  kind    : ItemKind
  title   : Title
  version : Version
  amount  : Nat
  deriving DecidableEq, Repr

/-- The payload of an OFFER (R200). -/
structure Offer where
  patron  : Patron
  zone    : Nat
  urgency : Urgency
  items   : List Item
  deriving DecidableEq, Repr

/-! ## CFL: settings, phase and marker (chapter 12) -/

inductive ZoneMode where
  | all | inside | outside
  deriving DecidableEq, Repr

inductive GuardMode where
  | lenient | strict
  deriving DecidableEq, Repr

inductive RuleField where
  | zone | kind | weight | urgency
  deriving DecidableEq, Repr

inductive RuleTest where
  | equal | notEqual | less | greaterOrEqual | inside | outside
  deriving DecidableEq, Repr

/-- A sort rule (R166). -/
structure SortRule where
  field : RuleField
  test  : RuleTest
  lo    : Nat
  hi    : Nat
  bin   : Nat
  deriving DecidableEq, Repr

/-- The settings of R196, in its order, with the sort rules of R197. -/
structure Settings where
  dupRate       : Nat
  fetchRate     : Nat
  shortageCost  : Nat
  holdCost      : Nat
  laneCost      : Nat
  bidWindow     : Nat
  takeWait      : Nat
  zoneMode      : ZoneMode
  zoneLo        : Nat
  zoneHi        : Nat
  nominalClass  : Nat
  nominalE      : Nat
  guardMode     : GuardMode
  loanDaysCart  : Nat
  loanDaysBrl   : Nat
  writeOffDays  : Nat
  holdLife      : Nat
  wearLimit     : Nat
  scrubInterval : Nat
  storeChunks   : Nat
  binCapacity   : List Nat
  defaultBin    : Nat
  overflowBin   : Nat
  rules         : List SortRule
  deriving DecidableEq, Repr

/-- The default settings (R196). -/
def Settings.default : Settings :=
  { dupRate := 40, fetchRate := 12, shortageCost := 900, holdCost := 20000, laneCost := 300,
    bidWindow := 40, takeWait := 100, zoneMode := .all, zoneLo := 0, zoneHi := 999,
    nominalClass := 1, nominalE := 2, guardMode := .lenient, loanDaysCart := 42, loanDaysBrl := 56,
    writeOffDays := 180, holdLife := 90, wearLimit := 3000, scrubInterval := 50, storeChunks := 1024,
    binCapacity := [40, 40, 40, 40, 40, 40, 40, 40, 40, 40, 40, 40], defaultBin := 0,
    overflowBin := 11, rules := [] }

/-- How far the start has come between steps (R199): in phase 4, while the rack is still being
identified, or after phase 5 (log 13). -/
inductive StartPhase where
  | blocks | running
  deriving DecidableEq, Repr

/-- The validity marker (R198). R198 gives no value for its fixed pattern and no rule for its check, so `pattern` and
`check` say whether each of the two is correct as it stands in the record memory (log 49). -/
structure Marker where
  pattern : Bool
  station : Station
  source  : Bool
  loadSum : BitVec 16
  check   : Bool
  deriving DecidableEq, Repr

/-- CFL with the validity marker in the record memory. -/
structure Cfl where
  station  : Station
  source   : Bool
  settings : Settings
  loadSum  : BitVec 16
  phase    : StartPhase
  marker   : Marker
  deriving DecidableEq, Repr

/-! ## FLI: the floor line (chapter 1) -/

/-- The thirteen frame kinds. -/
inductive Kind where
  | offer | cancel | day | bid | take | closed | ret | available | handover | refuse | fetch | info | image
  deriving DecidableEq, Repr

/-- A frame as a block offers it: FLI adds the Source and the Length (R4). -/
structure Frame where
  dest    : Byte
  kind    : Kind
  subject : BitVec 32
  detail  : BitVec 32
  payload : List Byte
  deriving DecidableEq, Repr

inductive TxState where
  | joining | active | muted
  deriving DecidableEq, Repr

/-- The line as this receiver sees it (R1). -/
inductive LineLevel where
  /-- idle: no bit other than idle since the line was last quiet -/
  | idle
  /-- the flag that closed the last frame, and no bit other than idle since -/
  | closed
  /-- bits other than idle that followed no flag -/
  | stray
  /-- a flag that closed no frame -/
  | flagged
  /-- frame content -/
  | content
  deriving DecidableEq, Repr

/-- No bit other than idle is on the line (R10). -/
def LineLevel.quiet : LineLevel → Bool
  | .idle | .closed => true
  | .stray | .flagged | .content => false

/-- Which frame FLI is sending: the head of the control queue, or the IMAGE frame of a serve stream. -/
inductive Sending where
  | control
  | image (x : StreamNo)
  deriving DecidableEq, Repr

/-- FLI. `slotZero` is the moment slot 0 begins, from which the turn count follows (R8, R9);
`joinFrom` is the start of the quiet measurement of R14; `withdrawHead` says that the BID being sent has
been withdrawn (R16); `ownEndDue` that the next frame end is the station's own (R7); `lineOut` is what
FLI drives on the line. -/
structure Fli where
  txState      : TxState
  lastSender   : Option Station
  slotZero     : Option Moment
  line         : LineLevel
  queue        : List Frame
  alternation  : StreamNo
  collisions   : Nat
  joinFrom     : Option Moment
  sending      : Option Sending
  withdrawHead : Bool
  ownEndDue    : Bool
  lineOut      : List Bool
  deriving DecidableEq, Repr

/-! ## AU: the auction (chapter 2) -/

/-- The flags that a BID carries (R32). -/
structure BidFlags where
  images     : Byte
  copies     : Byte
  cartridges : Byte
  deriving DecidableEq, Repr

structure HeardBid where
  station : Station
  cost    : Nat
  key     : BitVec 4
  flags   : BidFlags
  deriving DecidableEq, Repr

inductive OwnBid where
  | held | queued | sent
  deriving DecidableEq, Repr

inductive AuctionState where
  | bidding | awaitingTake
  deriving DecidableEq, Repr

/-- An entry of the auction table (R18). -/
structure AuctionEntry where
  order          : OrderSerial
  offer          : Offer
  state          : AuctionState
  cost           : Nat
  key            : BitVec 4
  flags          : BidFlags
  ownBid         : OwnBid
  heard          : List HeardBid
  windowDeadline : Moment
  takeDeadline   : Option Moment
  rank           : Option Nat
  deriving DecidableEq, Repr

structure Au where
  entries   : Table AuctionEntry
  malformed : Nat
  declined  : Nat
  held      : List Frame
  deriving DecidableEq, Repr

/-! ## WQ: the work queue (chapter 3) -/

/-- The states of an item entry (R48), in its order. -/
inductive ItemState where
  | planned | held | failed | mailed | cancelled
  deriving DecidableEq, Repr

/-- An item entry of a work record (R47). -/
structure WorkItem where
  index      : Nat
  kind       : ItemKind
  title      : Title
  version    : Version
  amount     : Nat
  state      : ItemState
  holdServed : Bool
  deriving DecidableEq, Repr

inductive PickState where
  | pending | picked
  deriving DecidableEq, Repr

/-- A braille item riding a bundle (R52), with MLC's pick state (R159) and copy-set tag (R160). -/
structure Rider where
  item    : Nat
  pick    : Option PickState
  copySet : Option LoanTag
  deriving DecidableEq, Repr

/-- The states of a bundle, in the order of R52 and R53. -/
inductive BundleState where
  | waiting | producing | written | packing | laned | mailed
  deriving DecidableEq, Repr

inductive ContainerState where
  | uncarded | carded | entered
  deriving DecidableEq, Repr

/-- What a container holds (R160): cartridges in position order, or part k of n of a copy set. -/
inductive ContainerBody where
  | cartridges (serials : List CartSerial)
  | braille (item : Nat) (title : Title) (part parts first last perCopy : Nat)
  deriving DecidableEq, Repr

/-- A container of a bundle's container list (R160). -/
structure Container where
  body  : ContainerBody
  items : List Nat
  state : ContainerState
  tag   : Option LoanTag
  deriving DecidableEq, Repr

/-- A bundle (R52). Its planned cartridges are those of the plan store that name it. -/
structure Bundle where
  number     : Nat
  riders     : List Rider
  state      : BundleState
  containers : List Container
  deriving DecidableEq, Repr

inductive EndMark where
  | none | cancelled | abandoned
  deriving DecidableEq, Repr

/-- A work record (R47). `precedence` is present exactly when the taken-whole mark is set. -/
structure WorkRecord where
  order      : OrderSerial
  patron     : Patron
  zone       : Nat
  urgency    : Urgency
  takenWhole : Bool
  precedence : Option (Nat × BitVec 4)
  sources    : List (Station × Byte)
  items      : List WorkItem
  bundles    : List Bundle
  endMark    : EndMark
  gateCount  : Nat
  mailedTags : List (LoanTag × List Nat)
  deriving DecidableEq, Repr

/-- A placement (R49). -/
structure Placement where
  item       : Nat
  part       : Nat
  imageStart : Nat
  length     : Nat
  cartStart  : Nat
  deriving DecidableEq, Repr

/-- A planned cartridge (R49) with its load-asked mark (R102). `written` says that its cartridge has reached Written: a
written planned cartridge stays written, whatever becomes of the cartridge's record (R52, R56; log 48). -/
structure PlannedCart where
  order      : OrderSerial
  bundle     : Nat
  position   : Nat
  placements : List Placement
  link       : Option CartSerial
  written    : Bool
  loadAsked  : Bool
  deriving DecidableEq, Repr

/-- WQ: `records` in queue order (R46); `early` holds the CLOSED of each record complete at its creation whose TAKE AU
still holds (R54), oldest first. -/
structure Wq where
  records : List WorkRecord
  plan    : Table PlannedCart
  held    : List Frame
  early   : List Frame
  deriving DecidableEq, Repr

/-! ## ISC: the image store (chapter 4) -/

inductive ImageState where
  | arriving | present | damaged
  deriving DecidableEq, Repr

/-- A directory entry that is not Free (R72). Its pin count is computed (R73). -/
structure DirEntry where
  name     : ImageName
  size     : Nat
  head     : Option Nat
  state    : ImageState
  useStamp : Nat
  complete : Nat
  source   : Option Station
  fails    : Nat
  deriving DecidableEq, Repr

/-- An owned entry of the chunk chain table (R70). -/
structure ChunkLink where
  owner : Nat
  next  : Option Nat
  deriving DecidableEq, Repr

/-- The states of a fetch stream (4.3), in their order. -/
inductive FetchState where
  | idle | waiting | asking | receiving | retrying
  deriving DecidableEq, Repr

/-- The slice in a receive buffer (R89). `check` is present on slice 63 of a sector whose CRC agreed
(R81): the check value to be written when the slice has been written. -/
structure RxSlice where
  sector : Nat
  slice  : Nat
  data   : List Byte
  check  : Option Check32
  deriving DecidableEq, Repr

/-- A fetch stream. `askStart`, `askCount`: the run last asked for; `runStart`, `runEnd`: the open run;
`sector`, `slice`: the expected slice; `silence`: the moment the silence timer reaches 500 ms. -/
structure FetchStream where
  state      : FetchState
  image      : Option ImageName
  entry      : Option Nat
  candidates : List Station
  askStart   : Nat
  askCount   : Nat
  runStart   : Nat
  runEnd     : Nat
  sector     : Nat
  slice      : Nat
  crc        : Check32
  buffer     : Option RxSlice
  silence    : Option Moment
  retryAt    : Option Moment
  deriving DecidableEq, Repr

/-- A serve stream that is sending (R84, R85). `ready` is the slice read and not yet sent, with the check
value when it is slice 63; `onLine` says that its frame is being sent. -/
structure ServeStream where
  requester : Station
  name      : ImageName
  entry     : Nat
  sector    : Nat
  slice     : Nat
  runEnd    : Nat
  infoSent  : Bool
  ready     : Option (List Byte × Option Check32)
  onLine    : Bool
  deriving DecidableEq, Repr

/-- A scrub read in progress (R86). `discard`: the entry has left Present meanwhile. -/
structure ScrubRead where
  sector  : Nat
  entry   : Nat
  discard : Bool
  deriving DecidableEq, Repr

/-- The users of the store port (R88), in class order. -/
inductive PortUser where
  | fetch (x : StreamNo)
  | duplicator
  | serve (x : StreamNo)
  | scrub
  deriving DecidableEq, Repr

structure Isc where
  directory     : Table DirEntry
  chains        : Table ChunkLink
  crcArea       : Table Check32
  store         : Memory
  useCounter    : Nat
  fetch0        : FetchStream
  fetch1        : FetchStream
  serve0        : Option ServeStream
  serve1        : Option ServeStream
  scrubCursor   : Nat
  scrubRead     : Option ScrubRead
  scrubNext     : Moment
  guardDiscards : Nat
  port          : Option PortUser
  lastFetch     : StreamNo
  lastServe     : StreamNo
  held          : List Frame
  deriving DecidableEq, Repr

/-! ## DE: the duplicator rack (chapter 5) -/

/-- The states of an occupied socket (R91); a socket not in the table is Empty. -/
inductive SocketState where
  | identifying | holding | busy | refused
  deriving DecidableEq, Repr

/-- The identity area of a cartridge (R92, R201). -/
structure Header where
  serial   : CartSerial
  capClass : Nat
  e        : Nat
  width    : Nat
  access   : Nat
  wear     : Nat
  erased   : Bool
  deriving DecidableEq, Repr

/-- The operation of a Busy socket with its position (R91): what its next step, or the step the cartridge
is working on, does. `rewrite` marks the erase of R108. -/
inductive Op where
  | headerWrite
  | sectorWrite (placement sector : Nat)
  | directoryWrite
  | verifySector (placement sector : Nat)
  | verifyDirectory
  | erase (rewrite : Bool) (group : Nat)
  | eraseHeader (rewrite : Bool)
  deriving DecidableEq, Repr

/-- An occupied socket (R91). `deadline` is set exactly while the cartridge works on its own; `stale` says
that what it is working on belongs to a stopped operation (R107); `silent` that a limit has run out before its ready, so
that it is not ready and is sent nothing (R94); `dirCheck` is the directory CRC that was written (R106). -/
structure SocketEntry where
  state    : SocketState
  serial   : Option CartSerial
  header   : Option Header
  op       : Option Op
  attempt  : Nat
  deadline : Option Moment
  stale    : Bool
  silent   : Bool
  dirCheck : Check32
  deriving DecidableEq, Repr

/-- The contents of the write holding slot (R96): being read from the store (physical sector and directory
entry), or full. -/
inductive SlotFill where
  | filling (sector entry : Nat)
  | full (bytes : List Byte)
  deriving DecidableEq, Repr

structure WriteSlot where
  socket : SocketNo
  fill   : SlotFill
  deriving DecidableEq, Repr

/-- The read holding slot (R97). `behind` says that a slice of the write slot's sector was requested of the store port
before the check value that this sector waits for, and goes first (R88; log 42). -/
structure ReadSlot where
  socket : SocketNo
  bytes  : List Byte
  behind : Bool
  deriving DecidableEq, Repr

/-- The operations on the socket bus (R95): the three writes share the write slot, the two reads the
read slot. -/
inductive BusOp where
  | headerRead | write | sectorRead | erase
  deriving DecidableEq, Repr

/-- What the address phases of a transfer name (R95): the identity area, a sector of the cartridge, or an erase
group. -/
inductive BusTarget where
  | identity
  | sector (n : Nat)
  | group (n : Nat)
  deriving DecidableEq, Repr

/-- How a transfer goes over the socket bus (R95): its address, the number of address phases, and the bytes that each
strobe moves. -/
structure Transfer where
  target : BusTarget
  phases : Nat
  strobe : Nat
  deriving DecidableEq, Repr

/-- A bus grant; `limit` is the moment at which the read limit runs out, and none from the cartridge's first ready of the
transfer on, which ends it (R94). -/
structure Grant where
  socket   : SocketNo
  op       : BusOp
  limit    : Option Moment
  transfer : Transfer
  deriving DecidableEq, Repr

/-- DE. `unidentified`: the sockets found occupied at the reset and not yet identified (R113). `walkDue`: one of
the events of R99 has happened in the act now running and the walk for assignment is owed; it stands between
steps only until the identification after a reset is complete (log 31). -/
structure De where
  sockets      : Table SocketEntry
  writeSlot    : Option WriteSlot
  readSlot     : Option ReadSlot
  grant        : Option Grant
  lastGranted  : SocketNo
  unidentified : List SocketNo
  walkDue      : Bool
  deriving DecidableEq, Repr

/-! ## CP: the cartridge pool (chapter 6) -/

/-- The fourteen states of R115, in its order. -/
inductive CartState where
  | ready | blank | assigned | writing | verifying | written | packed | out | returned | dirty
  | erasing | missing | faulted | retired
  deriving DecidableEq, Repr

/-- A cartridge record (R114). `link` is a slot of the plan store. -/
structure CartRecord where
  serial   : CartSerial
  capClass : Nat
  e        : Nat
  wear     : Nat
  state    : CartState
  socket   : Option SocketNo
  link     : Option Nat
  tag      : Option LoanTag
  stamp    : Nat
  deriving DecidableEq, Repr

structure Cp where
  records : Table CartRecord
  stamp   : Nat
  deriving DecidableEq, Repr

/-! ## SHU: shelf and holds (chapter 7) -/

/-- A shelf entry (R128) with its announce mark (R137). -/
structure ShelfEntry where
  title    : Title
  perCopy  : Nat
  owned    : Nat
  onShelf  : Nat
  reserved : Nat
  mark     : Bool
  deriving DecidableEq, Repr

/-- A hold record (R133). `offered` is the target and the deadline while Offered, `none` while Waiting. -/
structure Hold where
  order    : OrderSerial
  item     : Nat
  title    : Title
  version  : Version
  volumes  : Nat
  patron   : Patron
  zone     : Nat
  urgency  : Urgency
  placed   : Option Nat
  seq      : Nat
  offered  : Option (Station × Moment)
  setAside : Bool
  deriving DecidableEq, Repr

/-- SHU: `holds` in hold order (R133). `due` is the model's own: the titles of which a copy became free in
the act now running and which are owed a serve pass of the first kind (R136); empty between steps (log 31). -/
structure Shu where
  shelf : Table ShelfEntry
  holds : List Hold
  seq   : Nat
  held  : List Frame
  due   : List Title
  deriving DecidableEq, Repr

/-! ## LU: loans and the calendar (chapter 8) -/

/-- The states of a loan record (R146), in its order. -/
inductive LoanState where
  | carded | out | overdue | inTransfer
  deriving DecidableEq, Repr

/-- What a loan's container holds (R145). -/
inductive LoanBody where
  | cartridge (serials : List CartSerial)
  | braille (item : Nat) (title : Title) (copySet : LoanTag) (part parts first last perCopy : Nat)
  deriving DecidableEq, Repr

/-- A loan record (R145). -/
structure Loan where
  tag    : LoanTag
  order  : OrderSerial
  patron : Patron
  zone   : Nat
  body   : LoanBody
  carded : Nat
  due    : Nat
  state  : LoanState
  deriving DecidableEq, Repr

structure Lu where
  loans      : Table Loan
  nextSerial : LoanSerial
  day        : Nat
  dayKnown   : Bool
  writeOffs  : Nat
  held       : List Frame
  deriving DecidableEq, Repr

/-! ## MLC: the mail lane (chapter 9) -/

inductive BinState where
  | open | full | disabled
  deriving DecidableEq, Repr

/-- A bin (R169). -/
structure Bin where
  state    : BinState
  capacity : Nat
  count    : Nat
  first    : Option LoanTag
  last     : Option LoanTag
  deriving DecidableEq, Repr

inductive CardState where
  | writing | done | fault
  deriving DecidableEq, Repr

/-- A loan of the lane order with its card state (R162). -/
structure LaneSlot where
  tag  : LoanTag
  card : CardState
  deriving DecidableEq, Repr

/-- The card writer (R163); the card deadline is absent until the image has been sent (R162). -/
inductive Writer where
  | idle
  | writing (tag : LoanTag) (deadline : Option Moment)
  | fault (tag : LoanTag)
  deriving DecidableEq, Repr

/-- The gate (R165, R167). `tag` is `none` for an unexpected container; `bin` is the bin diverted into, or
the bin chosen first. -/
inductive Gate where
  | empty
  | diverting (tag : Option LoanTag) (bin : Nat)
  | holding (tag : Option LoanTag) (bin : Nat)
  deriving DecidableEq, Repr

/-- The reasons for which the lane is Blocked (R161), in the order of their precedence. -/
inductive BlockReason where
  | dayUnknown | loansFull | laneOrderFull | noOpenBin
  deriving DecidableEq, Repr

/-- A manifest record (R170). -/
structure ManifestRec where
  sack     : Nat
  bin      : Nat
  count    : Nat
  first    : Option LoanTag
  last     : Option LoanTag
  day      : Nat
  dayKnown : Bool
  deriving DecidableEq, Repr

/-- MLC: `lane` is `none` while Running; `laneList` names bundles by order serial and bundle number;
`cardOut` is the card image last sent to the card writer, in the order of its bits on CWD (R162, R201). -/
structure Mlc where
  bins      : List Bin
  laneList  : List (OrderSerial × Nat)
  laneOrder : List LaneSlot
  sackNo    : Nat
  manifest  : Table ManifestRec
  writePos  : Nat
  writer    : Writer
  gate      : Gate
  lane      : Option BlockReason
  cardOut   : List Bool
  deriving DecidableEq, Repr

/-! ## RTI: returns (chapter 10) -/

inductive ChuteState where
  | idle | reading | routing
  deriving DecidableEq, Repr

inductive Route where
  | intake | transfer | manual
  deriving DecidableEq, Repr

/-- The contents of a return face (R201). -/
inductive CardBody where
  | cartridge (serials : List CartSerial)
  | braille (title : Title) (copySet : LoanTag) (part parts first last : Nat)
  deriving DecidableEq, Repr

/-- A decoded return face. -/
structure Card where
  tag  : LoanTag
  body : CardBody
  deriving DecidableEq, Repr

structure Rti where
  chute    : ChuteState
  deadline : Option Moment
  route    : Option Route
  lastCard : Option (Card × Route)
  held     : List Frame
  deriving DecidableEq, Repr

/-! ## PP: the panel port (chapter 11) -/

inductive SocketReason where
  | invalidHeader | serialInAnotherSocket | poolFull | inLane | onLoan | faulted | retired
  deriving DecidableEq, Repr

inductive ReturnReason where
  | readFailure | checkDigit | format | noOwner | notMailed | shelfRefused
  deriving DecidableEq, Repr

inductive ConfigCause where
  | stationZero | checksum
  deriving DecidableEq, Repr

/-- The event kinds with the arguments their records carry (R189). -/
inductive Event where
  | loadCartridges (capClass slot : Nat)
  | socketRefused (k : SocketNo) (reason : SocketReason)
  | cartridgeFaulted (k : SocketNo)
  | cartridgeRetired (k : SocketNo)
  | pickList (record item : Nat)
  | cardFault (tag : LoanTag)
  | binFull (bin : Nat)
  | laneBlocked (reason : BlockReason)
  | unexpectedContainer
  | returnUnread (reason : ReturnReason)
  | strayReturn (tag : LoanTag)
  | imageDamaged (entry : Nat)
  | itemFailed (order : OrderSerial) (item : Nat)
  | dayRegression (day : Nat)
  | numberClash
  | configFault (cause : ConfigCause)
  | holdLapsed (order : OrderSerial) (item : Nat)
  | loanWrittenOff (tag : LoanTag)
  | eventsLost (count : Nat)
  deriving DecidableEq, Repr

/-- The pointer (R186): for table 0, `offset` is the byte position of the event view. -/
structure Pointer where
  table  : Byte
  index  : Nat
  offset : Nat
  deriving DecidableEq, Repr

/-- The record buffer (R187). -/
structure RecordBuffer where
  table : Byte
  index : Nat
  bytes : List Byte
  stale : Bool
  deriving DecidableEq, Repr

/-- A command that has been taken: the command byte and the argument bytes as they stood at its write (R190). -/
structure TakenCommand where
  byte : Byte
  arg0 : Byte
  arg1 : Byte
  arg2 : Byte
  arg3 : Byte
  deriving DecidableEq, Repr

/-- The command slot (R190). -/
inductive CommandSlot where
  | idle
  | executing (command : TakenCommand)
  deriving DecidableEq, Repr

inductive CommandOutcome where
  | none | accepted | refused
  deriving DecidableEq, Repr

structure Pp where
  arg0         : Byte
  arg1         : Byte
  arg2         : Byte
  arg3         : Byte
  command      : Byte
  pointer      : Pointer
  prefetch     : Byte
  buffer       : RecordBuffer
  dataOut      : Byte
  slot         : CommandSlot
  outcome      : CommandOutcome
  refusedWrite : Bool
  pause        : Bool
  events       : List Event
  drops        : Nat
  eventsLost   : Bool
  deriving DecidableEq, Repr

/-! ## The station -/

/-- The whole part. `clock` is the station's clock (log 1), `raceCount` the number of free choices made of the order of
offers (log 8) and of the end of a slice (log 42), `pending` the queue of waiting commands, first in, first out. -/
structure State where
  clock     : Moment
  raceCount : Nat
  cfl       : Cfl
  fli       : Fli
  au        : Au
  wq        : Wq
  isc       : Isc
  de        : De
  cp        : Cp
  shu       : Shu
  lu        : Lu
  mlc       : Mlc
  rti       : Rti
  pp        : Pp
  pending   : List Instr
  deriving DecidableEq, Repr

/-- No command of the part stops it: the manual gives every event an effect or says that it is ignored.
There is no constructor. -/
inductive Fault where
  deriving DecidableEq, Repr

/-- Why a command has no meaning. -/
inductive Refusal where
  /-- Raised by an arm of `exec` for a command that is not modelled yet; safe. -/
  | notModelled (mnemonic : String)
  deriving DecidableEq, Repr

/-! ## The state after reset -/

/-- FLI after reset (R17), its joining wait beginning at `now` (R14). -/
def Fli.start (now : Moment) (tx : TxState) : Fli :=
  { txState := tx, lastSender := none, slotZero := none, line := .idle, queue := [], alternation := 0,
    collisions := 0, joinFrom := some now, sending := none, withdrawHead := false, ownEndDue := false,
    lineOut := [] }

/-- AU after reset (R45). -/
def Au.start : Au := { entries := [], malformed := 0, declined := 0, held := [] }

/-- WQ after a power-on reset (R69). -/
def Wq.start : Wq := { records := [], plan := [], held := [], early := [] }

/-- An Idle fetch stream (R90). -/
def FetchStream.idle : FetchStream :=
  { state := .idle, image := none, entry := none, candidates := [], askStart := 0, askCount := 0,
    runStart := 0, runEnd := 0, sector := 0, slice := 0, crc := 0, buffer := none, silence := none,
    retryAt := none }

/-- ISC after a power-on reset (R90): the first scrub expiry comes at `firstScrub`. -/
def Isc.start (firstScrub : Moment) : Isc :=
  { directory := [], chains := [], crcArea := [], store := [], useCounter := 0, fetch0 := .idle,
    fetch1 := .idle, serve0 := none, serve1 := none, scrubCursor := 0, scrubRead := none,
    scrubNext := firstScrub, guardDiscards := 0, port := none, lastFetch := 1, lastServe := 1,
    held := [] }

/-- DE after reset, with an empty rack (R113). -/
def De.start : De :=
  { sockets := [], writeSlot := none, readSlot := none, grant := none, lastGranted := 7,
    unidentified := [], walkDue := false }

/-- CP after a power-on reset (R127). -/
def Cp.start : Cp := { records := [], stamp := 0 }

/-- SHU after a power-on reset (R144). -/
def Shu.start : Shu := { shelf := [], holds := [], seq := 0, held := [], due := [] }

/-- LU after a power-on reset (R158). -/
def Lu.start : Lu :=
  { loans := [], nextSerial := 0, day := 0, dayKnown := false, writeOffs := 0, held := [] }

/-- A bin of the given configured capacity with a new sack (R169, R173). -/
def Bin.start (capacity : Nat) : Bin :=
  { state := if capacity = 0 then .disabled else .open, capacity := capacity, count := 0,
    first := none, last := none }

/-- MLC after a power-on reset (R173); the lane is Blocked, since the day is unknown. -/
def Mlc.start (capacities : List Nat) : Mlc :=
  { bins := capacities.map Bin.start, laneList := [], laneOrder := [], sackNo := 0, manifest := [],
    writePos := 0, writer := .idle, gate := .empty, lane := some .dayUnknown, cardOut := [] }

/-- RTI after a power-on reset (R184). -/
def Rti.start : Rti :=
  { chute := .idle, deadline := none, route := none, lastCard := none, held := [] }

/-- PP after reset (R193). -/
def Pp.start : Pp :=
  { arg0 := 0, arg1 := 0, arg2 := 0, arg3 := 0, command := 0,
    pointer := { table := 0, index := 0, offset := 0 }, prefetch := 0,
    buffer := { table := 0, index := 0, bytes := [], stale := true }, dataOut := 0, slot := .idle,
    outcome := .none, refusedWrite := false, pause := false, events := [], drops := 0,
    eventsLost := false }

/-- The load sum of the default settings: the low 16 bits of the sum of the 159-byte image's bytes before
the checksum (R196, R202). -/
def defaultLoadSum : BitVec 16 := 1827

/-- The state right after a power-on start at clock 0 with station straps 1, CFGSRC low and nothing in the
cell (log 3): LaneBlocked for the day unknown stands in the event queue (R173, R193). -/
def State.reset : State :=
  { clock := 0
    raceCount := 0
    cfl := { station := 1, source := false, settings := .default, loadSum := defaultLoadSum,
             phase := .running,
             marker := { pattern := true, station := 1, source := false, loadSum := defaultLoadSum, check := true } }
    fli := Fli.start 0 .joining
    au := .start
    wq := .start
    isc := Isc.start (50 * 100 * 32000)
    de := .start
    cp := .start
    shu := .start
    lu := .start
    mlc := Mlc.start Settings.default.binCapacity
    rti := .start
    pp := { Pp.start with events := [.laneBlocked .dayUnknown] }
    pending := [] }

end Sys2Proof.Machine
end

