-- ==== Sys2Proof/Machine/Ops.lean ====
section
/-! DEFINITION. The shared operations: tables, the image store memory, bytes and numbers, the clock, and the
event queue. -/

namespace Sys2Proof.Machine

/-! ## Tables -/

/-- The entry at position `k`. -/
def Table.at? {α : Type} (t : Table α) (k : Nat) : Option α := (t.find? (fun e => e.1 == k)).map (·.2)

/-- Writes position `k`, keeping the rising order. -/
def Table.put {α : Type} (k : Nat) (v : α) : Table α → Table α
  | [] => [(k, v)]
  | (j, w) :: rest =>
    if k < j then (k, v) :: (j, w) :: rest
    else if k = j then (k, v) :: rest
    else (j, w) :: Table.put k v rest

/-- Frees position `k`. -/
def Table.drop {α : Type} (k : Nat) (t : Table α) : Table α := t.filter (fun e => e.1 != k)

/-- Changes the entry at position `k`, if there is one. -/
def Table.change {α : Type} (k : Nat) (f : α → α) (t : Table α) : Table α :=
  t.map (fun e => if e.1 = k then (e.1, f e.2) else e)

/-- The lowest position from `n` on that the (rising) table does not list. -/
def Table.freeFrom {α : Type} (n : Nat) : Table α → Nat
  | [] => n
  | (k, _) :: rest => if k = n then Table.freeFrom (n + 1) rest else Table.freeFrom n rest

/-- The lowest-numbered free position below `cap`. -/
def Table.firstFree {α : Type} (cap : Nat) (t : Table α) : Option Nat :=
  if Table.freeFrom 0 t < cap then some (Table.freeFrom 0 t) else none

/-- The positions are strictly rising and below `cap`. -/
def Table.wf {α : Type} (cap : Nat) (t : Table α) : Bool :=
  decide ((t.map (·.1)).Pairwise (· < ·)) && t.all (fun e => e.1 < cap)

/-! ## The image store memory -/

/-- What a byte of the image store reads as before anything has been written there: DESIGN CHOICE, log 4. -/
def Memory.unlisted : Byte := 0

/-- One byte of the image store. -/
def Memory.read (m : Memory) (a : Nat) : Byte :=
  ((m.find? (fun c => c.1 == a)).map (·.2)).getD Memory.unlisted

/-- Writes one byte, keeping the canonical form: addresses rising, and no byte listed that reads as an
unlisted one does. -/
def Memory.write (a : Nat) (v : Byte) : Memory → Memory
  | [] => if v = Memory.unlisted then [] else [(a, v)]
  | (b, w) :: rest =>
    if a < b then (if v = Memory.unlisted then (b, w) :: rest else (a, v) :: (b, w) :: rest)
    else if a = b then (if v = Memory.unlisted then rest else (a, v) :: rest)
    else (b, w) :: Memory.write a v rest

/-- Writes bytes at rising addresses from `a`. -/
def Memory.writeAll (a : Nat) : List Byte → Memory → Memory
  | [], m => m
  | v :: vs, m => Memory.writeAll (a + 1) vs (Memory.write a v m)

/-- `n` bytes from `a`. -/
def Memory.readAll (m : Memory) (a n : Nat) : List Byte := (List.range n).map (fun i => m.read (a + i))

/-- The canonical form. -/
def Memory.wf (m : Memory) : Bool :=
  decide ((m.map (·.1)).Pairwise (· < ·)) && m.all (fun c => c.2 != Memory.unlisted)

/-! ## Numbers -/

/-- The smallest integer not less than x / y (00_scope.md, "Rounding"). -/
def ceilDiv (x y : Nat) : Nat := (x + y - 1) / y

/-- `x`, saturating at `limit`. -/
def saturate (limit x : Nat) : Nat := min limit x

/-- One more, stopping at `limit`. -/
def bump (limit x : Nat) : Nat := saturate limit (x + 1)

/-- The `n` low bytes of `x`, least significant first. -/
def bytesLE : Nat → Nat → List Byte
  | 0, _ => []
  | n + 1, x => BitVec.ofNat 8 x :: bytesLE n (x / 256)

/-- The number whose bytes, least significant first, are given. -/
def natLE : List Byte → Nat
  | [] => 0
  | b :: bs => b.toNat + 256 * natLE bs

/-- The byte at offset `i`, 0 past the end. -/
def byteAt (bs : List Byte) (i : Nat) : Byte := bs.getD i 0

/-- The `n` bytes from offset `i`. -/
def bytesAt (bs : List Byte) (i n : Nat) : List Byte := (bs.drop i).take n

/-- The number in the `n` bytes from offset `i`, least significant first. -/
def numAt (bs : List Byte) (i n : Nat) : Nat := natLE (bytesAt bs i n)

/-- Inserts by `key`, after the elements of equal key. -/
def insertBy {α : Type} (key : α → Nat) (x : α) : List α → List α
  | [] => [x]
  | y :: ys => if key x < key y then x :: y :: ys else y :: insertBy key x ys

/-- Sorts by `key`, rising and stable. -/
def sortBy {α : Type} (key : α → Nat) : List α → List α
  | [] => []
  | x :: xs => sortBy.place key x (sortBy key xs)
where
  /-- Puts `x` before the elements whose key is not lower. -/
  place (key : α → Nat) (x : α) : List α → List α
    | [] => [x]
    | y :: ys => if key y < key x then y :: place key x ys else x :: y :: ys

/-! ## The clock -/

/-- `n` microseconds in clock units (32 bit times of the 32 Mbit/s line). -/
def us (n : Nat) : Nat := 32 * n

/-- `n` milliseconds in clock units. -/
def ms (n : Nat) : Nat := 32000 * n

/-- The command now taken happens at `t`: the clock is then at least there (log 1). -/
def State.at (s : State) (t : Moment) : State := { s with clock := max s.clock t }

/-- A deadline has been reached. -/
def State.reached (s : State) (d : Moment) : Bool := d ≤ s.clock

/-! ## Events (R188) -/

/-- A block raises an event: appended while fewer than 32 records stand, otherwise dropped and counted. -/
def raise (e : Event) (s : State) : State :=
  if s.pp.events.length < 32 then { s with pp := { s.pp with events := s.pp.events ++ [e] } }
  else { s with pp := { s.pp with drops := bump 255 s.pp.drops, eventsLost := true } }

/-- The head record is popped: while EventsLost is set, the flag is cleared, an EventsLost record with the
drop count joins the tail and the drop count becomes 0 (R188). -/
def popEvent (s : State) : State :=
  let rest := s.pp.events.tail
  if s.pp.eventsLost then
    { s with pp := { s.pp with events := rest ++ [.eventsLost s.pp.drops], drops := 0, eventsLost := false } }
  else { s with pp := { s.pp with events := rest } }

/-- PINT: asserted while the event queue holds at least one record (R188). -/
def pint (s : State) : Bool := !s.pp.events.isEmpty

/-! ## Small readings used by several blocks -/

/-- The station's own number (R194). -/
def own (s : State) : Station := s.cfl.station

/-- FLI is Muted (R7). -/
def muted (s : State) : Bool := s.fli.txState == .muted

/-- A station's tiebreak key for an order (R31). -/
def keyOf (station : Station) (order : OrderSerial) : BitVec 4 := station - order.truncate 4

end Sys2Proof.Machine
end

