-- ==== Sys2Proof/Machine/Check.lean ====
section
/-! DEFINITION. The two cyclic redundancy checks: the frame check of R3 and the sector check of R71. Both
take each byte least significant bit first; the register is held reflected, so that the bit sent first
is bit 0 (DEDUCED, log 9). -/

namespace Sys2Proof.Machine

/-- One bit of the frame check: polynomial x^16 + x^12 + x^5 + 1, reflected (R3). -/
def crc16Bit (r : Check16) : Check16 :=
  if r.getLsbD 0 then (r >>> 1) ^^^ 0x8408#16 else r >>> 1

/-- One byte of the frame check. -/
def crc16Byte (r : Check16) (b : Byte) : Check16 :=
  crc16Bit (crc16Bit (crc16Bit (crc16Bit (crc16Bit (crc16Bit (crc16Bit (crc16Bit
    (r ^^^ b.setWidth 16))))))))

/-- The frame check over header and payload bytes: from FFFFh, not complemented (R3). -/
def crc16 (bytes : List Byte) : Check16 := bytes.foldl crc16Byte 0xFFFF#16

/-- One bit of the sector check: polynomial 04C11DB7h, reflected (R71). -/
def crc32Bit (r : Check32) : Check32 :=
  if r.getLsbD 0 then (r >>> 1) ^^^ 0xEDB88320#32 else r >>> 1

/-- One byte of the sector check. -/
def crc32Byte (r : Check32) (b : Byte) : Check32 :=
  crc32Bit (crc32Bit (crc32Bit (crc32Bit (crc32Bit (crc32Bit (crc32Bit (crc32Bit
    (r ^^^ b.setWidth 32))))))))

/-- The register before the first byte (R71). -/
def crc32Init : Check32 := 0xFFFFFFFF#32

/-- The register after more bytes. -/
def crc32Run (r : Check32) (bytes : List Byte) : Check32 := bytes.foldl crc32Byte r

/-- The check value of the bytes: the final register complemented (R71). -/
def crc32 (bytes : List Byte) : Check32 := ~~~ (crc32Run crc32Init bytes)

end Sys2Proof.Machine
end

