-- ==== Sys2Proof/Machine/Formats.lean ====
section
/-! DEFINITION. The byte layouts of chapter 13 and the line coding of chapter 1: frames, payloads, identity
area, directory image, card faces and event records. -/

namespace Sys2Proof.Machine

/-! ## Codes -/

/-- The kind codes (R200). -/
def Kind.code : Kind → Nat
  | .offer => 1 | .cancel => 2 | .day => 3 | .bid => 4 | .take => 5 | .closed => 6 | .ret => 7
  | .available => 8 | .handover => 9 | .refuse => 10 | .fetch => 11 | .info => 12 | .image => 13

/-- The kind a code names; 00h and codes above 0Dh name none (R200). -/
def kindOf (code : Nat) : Option Kind :=
  match code with
  | 1 => some .offer | 2 => some .cancel | 3 => some .day | 4 => some .bid | 5 => some .take
  | 6 => some .closed | 7 => some .ret | 8 => some .available | 9 => some .handover
  | 10 => some .refuse | 11 => some .fetch | 12 => some .info | 13 => some .image
  | _ => none

def Urgency.code : Urgency → Nat
  | .normal => 0 | .urgent => 1

def urgencyOf (code : Nat) : Option Urgency :=
  match code with
  | 0 => some .normal | 1 => some .urgent | _ => none

def ItemKind.code : ItemKind → Nat
  | .audio => 0 | .braille => 1

def itemKindOf (code : Nat) : Option ItemKind :=
  match code with
  | 0 => some .audio | 1 => some .braille | _ => none

/-- The outcomes of a CLOSED (R200). -/
inductive Outcome where
  | mailed | held | lapsed | cancelled | failed | writtenOff
  deriving DecidableEq, Repr

def Outcome.code : Outcome → Nat
  | .mailed => 1 | .held => 2 | .lapsed => 3 | .cancelled => 4 | .failed => 5 | .writtenOff => 6

def outcomeOf (code : Nat) : Option Outcome :=
  match code with
  | 1 => some .mailed | 2 => some .held | 3 => some .lapsed | 4 => some .cancelled
  | 5 => some .failed | 6 => some .writtenOff | _ => none

/-- The four statuses of an INFO (R200). -/
inductive InfoStatus where
  | present | absent | busy | otherVersion
  deriving DecidableEq, Repr

def InfoStatus.code : InfoStatus → Nat
  | .present => 0 | .absent => 1 | .busy => 2 | .otherVersion => 3

def infoStatusOf (code : Nat) : Option InfoStatus :=
  match code with
  | 0 => some .present | 1 => some .absent | 2 => some .busy | 3 => some .otherVersion | _ => none

/-- A loan tag as a number: the serial in bits 0..19, the station in bits 20..23 (chapter 13). -/
def tagCode (t : LoanTag) : Nat := t.serial.toNat + 1048576 * t.station.toNat

def tagOf (code : Nat) : LoanTag :=
  { station := BitVec.ofNat 4 (code / 1048576), serial := BitVec.ofNat 20 code }

/-- A (title, version) as a number: the title in bytes 0..2, the version in byte 3 (chapter 13). -/
def imageCode (n : ImageName) : Nat := n.title.toNat + 16777216 * n.version.toNat

def imageNameOf (code : Nat) : ImageName :=
  { title := BitVec.ofNat 24 code, version := BitVec.ofNat 8 (code / 16777216) }

/-! ## Frames on the line (R1 to R4, R200) -/

/-- The 13 header bytes and the payload of a frame that station `source` sends (R4, R200). -/
def frameBytes (source : Station) (f : Frame) : List Byte :=
  bytesLE 1 source.toNat ++ [f.dest] ++ bytesLE 1 f.kind.code ++ bytesLE 2 f.payload.length
    ++ bytesLE 4 f.subject.toNat ++ bytesLE 4 f.detail.toNat ++ f.payload

/-- The bits of a byte, least significant first. -/
def bitsOfByte (b : Byte) : List Bool := (List.range 8).map (fun i => b.getLsbD i)

/-- Zero insertion: after every run of five ones a zero goes in; `ones` counts the run so far (R1). -/
def stuff : Nat → List Bool → List Bool
  | _, [] => []
  | ones, true :: bs => if ones = 4 then true :: false :: stuff 0 bs else true :: stuff (ones + 1) bs
  | _, false :: bs => false :: stuff 0 bs

/-- Zero removal: a zero after five ones is left out (R1). -/
def unstuff : Nat → List Bool → List Bool
  | _, [] => []
  | ones, true :: bs => true :: unstuff (ones + 1) bs
  | ones, false :: bs => if ones = 5 then unstuff 0 bs else false :: unstuff 0 bs

/-- The flag: zero, six ones, zero (R1). -/
def flagBits : List Bool := [false, true, true, true, true, true, true, false]

/-- The abort sequence that FLI sends: seven ones (R1). -/
def abortBits : List Bool := [true, true, true, true, true, true, true]

/-- The content of a frame: header, payload and frame check, its low byte first (R3). -/
def frameContent (source : Station) (f : Frame) : List Byte :=
  frameBytes source f ++ bytesLE 2 (crc16 (frameBytes source f)).toNat

/-- What FLI drives on the line for a whole frame: a flag, the stuffed content, a flag (R1). -/
def lineBits (source : Station) (f : Frame) : List Bool :=
  flagBits ++ stuff 0 ((frameContent source f).flatMap bitsOfByte) ++ flagBits

/-- How a frame ended (R1). -/
inductive FrameEnding where
  | closed | aborted
  deriving DecidableEq, Repr

/-- The content bits before the closing flag or the abort, and which of the two ended the frame. -/
def splitEnding (bits : List Bool) : List Bool × FrameEnding :=
  match bits.reverse with
  | false :: true :: true :: true :: true :: true :: true :: false :: r => (r.reverse, .closed)
  | true :: true :: true :: true :: true :: true :: true :: r => (r.reverse, .aborted)
  | r => (r.reverse, .aborted)

/-- Packs bits into bytes, least significant first; `none` when they are no whole number of bytes. -/
def packBytes : List Bool → Option (List Byte)
  | [] => some []
  | b0 :: b1 :: b2 :: b3 :: b4 :: b5 :: b6 :: b7 :: rest =>
    (packBytes rest).map fun bs =>
      BitVec.ofNat 8 (b0.toNat + 2 * b1.toNat + 4 * b2.toNat + 8 * b3.toNat + 16 * b4.toNat
        + 32 * b5.toNat + 64 * b6.toNat + 128 * b7.toNat) :: bs
  | _ => none

/-- A good frame as received: its Source, its Destination, its Kind byte and the rest. -/
structure Received where
  source  : Station
  dest    : Nat
  kind    : Nat
  subject : BitVec 32
  detail  : BitVec 32
  payload : List Byte
  deriving DecidableEq, Repr

/-- The header fields and the payload of frame content, as R200 lays them out. -/
def readHeader (c : List Byte) : Received :=
  { source := BitVec.ofNat 4 (numAt c 0 1), dest := numAt c 1 1, kind := numAt c 2 1,
    subject := BitVec.ofNat 32 (numAt c 5 4), detail := BitVec.ofNat 32 (numAt c 9 4),
    payload := bytesAt c 13 (numAt c 3 2) }

/-- The tests of R2 on content bytes of a frame that ended by a closing flag. -/
def contentGood (c : List Byte) : Bool :=
  15 ≤ c.length && numAt c 3 2 ≤ 1040 && c.length == 13 + numAt c 3 2 + 2 && numAt c 0 1 ≤ 15
    && numAt c (13 + numAt c 3 2) 2 == (crc16 (c.take (13 + numAt c 3 2))).toNat

/-- The frame whose line bits are given, when it passes its check (R2); `none` for a bad frame. -/
def receive (bits : List Bool) : Option Received :=
  match splitEnding bits with
  | (_, .aborted) => none
  | (content, .closed) =>
    match packBytes (unstuff 0 content) with
    | none => none
    | some c => if contentGood c then some (readHeader c) else none

/-! ## Payloads (R200) -/

def itemBytes (i : Item) : List Byte :=
  bytesLE 1 i.kind.code ++ bytesLE 3 i.title.toNat ++ bytesLE 1 i.version.toNat ++ bytesLE 2 i.amount

/-- The item whose seven bytes begin at offset `o`, if its kind byte names a kind. -/
def itemAt (p : List Byte) (o : Nat) : Option Item :=
  (itemKindOf (numAt p o 1)).map fun k =>
    { kind := k, title := BitVec.ofNat 24 (numAt p (o + 1) 3),
      version := BitVec.ofNat 8 (numAt p (o + 4) 1), amount := numAt p (o + 5) 2 }

/-- The items of an OFFER, all of them, or `none` when a kind byte names no kind. -/
def itemsAt (p : List Byte) : Nat → Nat → Option (List Item)
  | _, 0 => some []
  | o, n + 1 =>
    match itemAt p o, itemsAt p (o + 7) n with
    | some i, some is => some (i :: is)
    | _, _ => none

/-- The size of an audio item is 1..16383 sectors, the volumes of a braille item are 1..12 (R20). -/
def Item.inRange (i : Item) : Bool :=
  match i.kind with
  | .audio => 1 ≤ i.amount && i.amount ≤ 16383
  | .braille => 1 ≤ i.amount && i.amount ≤ 12

/-- A well-formed OFFER payload (R20), or `none`. -/
def readOffer (p : List Byte) : Option Offer :=
  if p.length < 8 then none
  else if numAt p 7 1 < 1 || 8 < numAt p 7 1 || p.length != 8 + 7 * numAt p 7 1 then none
  else
    match urgencyOf (numAt p 6 1), itemsAt p 8 (numAt p 7 1) with
    | some u, some items =>
      if items.all Item.inRange && numAt p 4 2 ≤ 999 then
        some { patron := BitVec.ofNat 32 (numAt p 0 4), zone := numAt p 4 2, urgency := u, items := items }
      else none
    | _, _ => none

/-- The offer's payload bytes (R200). -/
def offerBytes (o : Offer) : List Byte :=
  bytesLE 4 o.patron.toNat ++ bytesLE 2 o.zone ++ bytesLE 1 o.urgency.code ++ bytesLE 1 o.items.length
    ++ o.items.flatMap itemBytes

/-- The bitmap with bit i set for each index i listed. -/
def bitmap (is : List Nat) : Byte := is.foldl (fun b i => b ||| (1#8 <<< i)) 0

/-- Every station (R200). -/
def everyone : Byte := 255

/-- BID (R32). -/
def bidFrame (order : OrderSerial) (cost : Nat) (key : BitVec 4) (f : BidFlags) : Frame :=
  { dest := everyone, kind := .bid, subject := order, detail := 0,
    payload := bytesLE 2 cost ++ bytesLE 1 key.toNat ++ [f.images, f.copies, f.cartridges] }

/-- TAKE with the given Detail: an item index, or 255 for the whole order. -/
def takeFrame (order : OrderSerial) (detail cost : Nat) (key : BitVec 4) : Frame :=
  { dest := everyone, kind := .take, subject := order, detail := BitVec.ofNat 32 detail,
    payload := bytesLE 2 cost ++ bytesLE 1 key.toNat }

/-- CLOSED with the given Detail, outcome and loan tags. -/
def closedFrame (order : OrderSerial) (detail : Nat) (o : Outcome) (tags : List LoanTag) : Frame :=
  { dest := everyone, kind := .closed, subject := order, detail := BitVec.ofNat 32 detail,
    payload := bytesLE 1 o.code ++ bytesLE 1 tags.length ++ tags.flatMap (fun t => bytesLE 3 (tagCode t)) }

/-- A station number as a Destination. -/
def destOf (st : Station) : Byte := st.setWidth 8

/-- RETURN to the owning station (R181). -/
def returnFrame (tag : LoanTag) (serials : List CartSerial) (transfer : Bool) : Frame :=
  { dest := destOf tag.station, kind := .ret, subject := BitVec.ofNat 32 (tagCode tag), detail := 0,
    payload := bytesLE 1 serials.length ++ bytesLE 1 transfer.toNat
      ++ serials.flatMap (fun c => bytesLE 4 c.toNat) }

/-- AVAILABLE (R137). -/
def availableFrame (title : Title) (free : Nat) : Frame :=
  { dest := everyone, kind := .available, subject := BitVec.ofNat 32 title.toNat,
    detail := BitVec.ofNat 32 free, payload := [] }

/-- HANDOVER of a hold (R138); the item is laid out as an OFFER item. -/
def handoverFrame (peer : Station) (h : Hold) : Frame :=
  { dest := destOf peer, kind := .handover, subject := h.order, detail := BitVec.ofNat 32 h.item,
    payload := bytesLE 4 h.patron.toNat ++ bytesLE 2 h.zone ++ bytesLE 1 h.urgency.code
      ++ itemBytes { kind := .braille, title := h.title, version := h.version, amount := h.volumes } }

/-- REFUSE (R139). -/
def refuseFrame (peer : Station) (order : OrderSerial) (item : Nat) : Frame :=
  { dest := destOf peer, kind := .refuse, subject := order, detail := BitVec.ofNat 32 item, payload := [] }

/-- FETCH (R78): start sector in Detail bytes 0..1, count in byte 2. -/
def fetchFrame (source : Station) (name : ImageName) (start count : Nat) : Frame :=
  { dest := destOf source, kind := .fetch, subject := BitVec.ofNat 32 (imageCode name),
    detail := BitVec.ofNat 32 (start + 65536 * count), payload := [] }

/-- INFO (R84): size in Detail bytes 0..1, status in byte 2. -/
def infoFrame (peer : Station) (name : ImageName) (size : Nat) (st : InfoStatus) : Frame :=
  { dest := destOf peer, kind := .info, subject := BitVec.ofNat 32 (imageCode name),
    detail := BitVec.ofNat 32 (size % 65536 + 65536 * st.code), payload := [] }

/-- IMAGE (R85): sector in Detail bytes 0..1, slice in byte 2, last-of-run flag in bit 0 of byte 3. -/
def imageFrame (peer : Station) (name : ImageName) (sector slice : Nat) (last : Bool)
    (data : List Byte) : Frame :=
  { dest := destOf peer, kind := .image, subject := BitVec.ofNat 32 (imageCode name),
    detail := BitVec.ofNat 32 (sector + 65536 * slice + 16777216 * last.toNat), payload := data }

/-- Byte `i` of a Detail. -/
def detailByte (f : Received) (i : Nat) : Nat := f.detail.toNat / 256 ^ i % 256

/-- The sector or size in the low two bytes of a Detail. -/
def detailLow (f : Received) : Nat := f.detail.toNat % 65536

/-! ## Cartridges (R92, R201) -/

/-- The identity area. -/
def headerBytes (h : Header) : List Byte :=
  bytesLE 4 h.serial.toNat ++ bytesLE 1 h.capClass ++ bytesLE 1 h.e ++ bytesLE 1 h.width
    ++ bytesLE 1 h.access ++ bytesLE 2 h.wear ++ bytesLE 1 h.erased.toNat

/-- The erased flag: 1 for set, 0 for clear; another byte is a free value (log 16). -/
def erasedFlagOf (b : Byte) : Bool :=
  if b = 1 then true else if b = 0 then false else Config.oddErasedFlag b

/-- The header in an identity area. -/
def readHeaderArea (a : List Byte) : Header :=
  { serial := BitVec.ofNat 32 (numAt a 0 4), capClass := numAt a 4 1, e := numAt a 5 1,
    width := numAt a 6 1, access := numAt a 7 1, wear := numAt a 8 2, erased := erasedFlagOf (byteAt a 10) }

/-- K for a capacity class (R92); a class above 3 is a free value (log 16). -/
def capacityOf (cls : Nat) : Nat :=
  match cls with
  | 0 => 4096 | 1 => 8192 | 2 => 16384 | 3 => 32768 | n => Config.oddCapacity n

/-- The read limit of an access class (R94). -/
def readLimitOf (access : Nat) : Nat :=
  match access with
  | 0 => ms 1 | 1 => ms 2 | 2 => ms 4 | 3 => ms 8 | n => Config.oddReadLimit n

/-- The program limit of an access class (R94). -/
def programLimitOf (access : Nat) : Nat :=
  match access with
  | 0 => ms 100 | 1 => ms 200 | 2 => ms 400 | 3 => ms 800 | n => Config.oddProgramLimit n

/-- The group erase limit of an access class (R94). -/
def eraseLimitOf (access : Nat) : Nat :=
  match access with
  | 0 => ms 200 | 1 => ms 400 | 2 => ms 800 | 3 => ms 1600 | n => Config.oddEraseLimit n

/-- A placement of the directory image with the image it names. -/
def placementBytes (p : Placement) (name : ImageName) : List Byte :=
  bytesLE 1 p.item ++ bytesLE 1 p.part ++ bytesLE 3 name.title.toNat ++ bytesLE 1 name.version.toNat
    ++ bytesLE 2 p.imageStart ++ bytesLE 2 p.length ++ bytesLE 2 p.cartStart

/-! ## Cards (R151, R152, R201) -/

/-- Digit `i` (from the least significant) of a BCD number in bytes. -/
def bcdDigit (bs : List Byte) (i : Nat) : Nat := (byteAt bs (i / 2)).toNat / 16 ^ (i % 2) % 16

/-- `n` bytes of BCD, least significant first, of a decimal number. -/
def bcdBytes : Nat → Nat → List Byte
  | 0, _ => []
  | n + 1, x => BitVec.ofNat 8 (x % 10 + 16 * (x / 10 % 10)) :: bcdBytes n (x / 100)

/-- The check digit over nine digits, the weights 3, 1, 3, ... from the left (R152). -/
def checkDigitOf (digits : List Nat) : Nat :=
  (10 - ((digits.zip [3, 1, 3, 1, 3, 1, 3, 1, 3]).map (fun d => d.1 * d.2)).sum % 10) % 10

/-- The nine digits of a tag: two of the station, seven of the serial (R152). -/
def tagDigits (t : LoanTag) : List Nat :=
  let s := t.station.toNat
  let n := t.serial.toNat
  [s / 10 % 10, s % 10, n / 1000000 % 10, n / 100000 % 10, n / 10000 % 10, n / 1000 % 10,
    n / 100 % 10, n / 10 % 10, n % 10]

/-- The check digit of a tag. -/
def tagCheckDigit (t : LoanTag) : Nat := checkDigitOf (tagDigits t)

/-- The nine digits and the check digit as one decimal number. -/
def tagNumber (t : LoanTag) : Nat :=
  (t.station.toNat * 10000000 + t.serial.toNat) * 10 + tagCheckDigit t

/-- The contents part of a return face, 17 bytes (R201). -/
def cardContents : CardBody → List Byte
  | .cartridge serials =>
    (bytesLE 1 serials.length ++ serials.flatMap (fun (c : CartSerial) => bytesLE 4 c.toNat)
      ++ List.replicate 16 0).take 17
  | .braille title set k n first last =>
    bytesLE 3 title.toNat ++ bytesLE 3 (tagCode set) ++ bytesLE 1 k ++ bytesLE 1 n ++ bytesLE 1 first
      ++ bytesLE 1 last ++ List.replicate 7 0

/-- The kind byte of a container: 0 for cartridges, 1 for braille, as an item kind. -/
def CardBody.code : CardBody → Nat
  | .cartridge _ => 0
  | .braille _ _ _ _ _ _ => 1

/-- The return face, 23 bytes (R201). -/
def returnFace (c : Card) : List Byte :=
  bcdBytes 5 (tagNumber c.tag) ++ bytesLE 1 c.body.code ++ cardContents c.body

/-- Why a card is unreadable after its image has been read in whole, or the card (R175). -/
inductive CardReading where
  | unreadable (reason : ReturnReason)
  | noOwner
  | card (c : Card)
  deriving DecidableEq, Repr

/-- The nine tag digits of a return face, from the left (R201). -/
def faceDigits (f : List Byte) : List Nat := (List.range 9).map (fun i => bcdDigit f (9 - i))

/-- The number that decimal digits write. -/
def decimal (ds : List Nat) : Nat := ds.foldl (fun n d => 10 * n + d) 0

/-- The contents of a return face, if they pass the tests of R175 for their kind. -/
def readContents (f : List Byte) (tag : LoanTag) : Option CardBody :=
  match numAt f 5 1 with
  | 0 =>
    if 1 ≤ numAt f 6 1 && numAt f 6 1 ≤ 4 then
      some (.cartridge ((List.range (numAt f 6 1)).map (fun i => BitVec.ofNat 32 (numAt f (7 + 4 * i) 4))))
    else none
  | 1 =>
    let set := tagOf (numAt f 9 3)
    let k := numAt f 12 1
    let n := numAt f 13 1
    let first := numAt f 14 1
    let last := numAt f 15 1
    if 1 ≤ k && k ≤ n && n ≤ 3 && first + 3 == 4 * k && first ≤ last && last ≤ 4 * k
        && set.station == tag.station then
      some (.braille (BitVec.ofNat 24 (numAt f 6 3)) set k n first last)
    else none
  | _ => none

/-- Decodes a return face (R175). A face that fails the check digit and another test is unread for its check digit
(DESIGN CHOICE, log 64). -/
def readCard (f : List Byte) : CardReading :=
  let ds := faceDigits f
  let station := decimal (ds.take 2)
  let serial := decimal (ds.drop 2)
  let tag : LoanTag := { station := BitVec.ofNat 4 station, serial := BitVec.ofNat 20 serial }
  if checkDigitOf ds != bcdDigit f 0 then .unreadable .checkDigit
  else if 15 < station || 1048575 < serial then .unreadable .format
  else
    match readContents f tag with
    | none => .unreadable .format
    | some body => if station = 0 then .noOwner else .card { tag := tag, body := body }

/-! ## Event records (R202) -/

def SocketReason.code : SocketReason → Nat
  | .invalidHeader => 1 | .serialInAnotherSocket => 2 | .poolFull => 3 | .inLane => 4 | .onLoan => 5
  | .faulted => 6 | .retired => 7

def BlockReason.code : BlockReason → Nat
  | .dayUnknown => 1 | .loansFull => 2 | .laneOrderFull => 3 | .noOpenBin => 4

def ReturnReason.code : ReturnReason → Nat
  | .readFailure => 1 | .checkDigit => 2 | .format => 3 | .noOwner => 4 | .notMailed => 5 | .shelfRefused => 6

def ConfigCause.code : ConfigCause → Nat
  | .stationZero => 1 | .checksum => 2

/-- The four bytes of an event record. -/
def Event.bytes : Event → List Byte
  | .loadCartridges c slot => bytesLE 1 1 ++ bytesLE 1 c ++ bytesLE 1 slot ++ [0]
  | .socketRefused k r => bytesLE 1 2 ++ bytesLE 1 k.val ++ bytesLE 1 r.code ++ [0]
  | .cartridgeFaulted k => bytesLE 1 3 ++ bytesLE 1 k.val ++ [0, 0]
  | .cartridgeRetired k => bytesLE 1 4 ++ bytesLE 1 k.val ++ [0, 0]
  | .pickList r i => bytesLE 1 5 ++ bytesLE 1 r ++ bytesLE 1 i ++ [0]
  | .cardFault t => bytesLE 1 6 ++ bytesLE 3 (tagCode t)
  | .binFull b => bytesLE 1 7 ++ bytesLE 1 b ++ [0, 0]
  | .laneBlocked r => bytesLE 1 8 ++ bytesLE 1 r.code ++ [0, 0]
  | .unexpectedContainer => bytesLE 1 8 ++ bytesLE 1 5 ++ [0, 0]
  | .returnUnread r => bytesLE 1 9 ++ bytesLE 1 r.code ++ [0, 0]
  | .strayReturn t => bytesLE 1 10 ++ bytesLE 3 (tagCode t)
  | .imageDamaged i => bytesLE 1 11 ++ bytesLE 2 i ++ [0]
  | .itemFailed o i => bytesLE 1 12 ++ bytesLE 2 o.toNat ++ bytesLE 1 i
  | .dayRegression d => bytesLE 1 13 ++ bytesLE 2 d ++ [0]
  | .numberClash => bytesLE 1 14 ++ [0, 0, 0]
  | .configFault c => bytesLE 1 15 ++ bytesLE 1 c.code ++ [0, 0]
  | .holdLapsed o i => bytesLE 1 16 ++ bytesLE 2 o.toNat ++ bytesLE 1 i
  | .loanWrittenOff t => bytesLE 1 17 ++ bytesLE 3 (tagCode t)
  | .eventsLost n => bytesLE 1 18 ++ bytesLE 1 n ++ [0, 0]

end Sys2Proof.Machine
end

