-- ==== Sys2Proof/Machine/Queue.lean ====
section
/-! DEFINITION. The control queue of FLI (R15, R16) as the producing blocks see it: offering a frame, holding
a refused one, offering again at each freed entry, and SHU's announcements (R137), which ride on it. -/

namespace Sys2Proof.Machine

/-- The blocks that produce control frames (chapter 1, kind table). -/
inductive Producer where
  | au | wq | isc | shu | lu | rti
  deriving DecidableEq, Repr

/-- The frames a block holds because FLI refused them, oldest first. -/
def heldOf (b : Producer) (s : State) : List Frame :=
  match b with
  | .au => s.au.held
  | .wq => s.wq.held
  | .isc => s.isc.held
  | .shu => s.shu.held
  | .lu => s.lu.held
  | .rti => s.rti.held

def setHeld (b : Producer) (fs : List Frame) (s : State) : State :=
  match b with
  | .au => { s with au := { s.au with held := fs } }
  | .wq => { s with wq := { s.wq with held := fs } }
  | .isc => { s with isc := { s.isc with held := fs } }
  | .shu => { s with shu := { s.shu with held := fs } }
  | .lu => { s with lu := { s.lu with held := fs } }
  | .rti => { s with rti := { s.rti with held := fs } }

/-- The table of R15: a BID is accepted while 11 or fewer entries are occupied, another kind while 15 or
fewer are. -/
def queueHasRoom (q : List Frame) (k : Kind) : Bool :=
  match k with
  | .bid => q.length ≤ 11
  | _ => q.length ≤ 15

/-- FLI decides an offer: accepted at the tail, discarded while Muted (R7), or refused (`none`). -/
def tryOffer (f : Frame) (s : State) : Option State :=
  if muted s then some s
  else if queueHasRoom s.fli.queue f.kind then
    some { s with fli := { s.fli with queue := s.fli.queue ++ [f] } }
  else none

/-- Changes the auction entry of an order. -/
def changeAuction (order : OrderSerial) (f : AuctionEntry → AuctionEntry) (s : State) : State :=
  let entries := s.au.entries.map (fun e => if e.2.order = order then (e.1, f e.2) else e)
  { s with au := { s.au with entries := entries } }

/-- Changes the shelf entry of a title. -/
def changeShelf (title : Title) (f : ShelfEntry → ShelfEntry) (s : State) : State :=
  let shelf := s.shu.shelf.map (fun e => if e.2.title = title then (e.1, f e.2) else e)
  { s with shu := { s.shu with shelf := shelf } }

/-- The shelf entry of a title. -/
def shelfOf (s : State) (title : Title) : Option ShelfEntry :=
  (s.shu.shelf.find? (fun e => e.2.title == title)).map (·.2)

/-- The free copies of a title: on shelf less reserved, none without an entry (R25, R128). -/
def freeCopies (s : State) (title : Title) : Nat :=
  match shelfOf s title with
  | some e => e.onShelf - e.reserved
  | none => 0

/-- AU holds its whole-order TAKE of an order (R35). -/
def holdsTake (s : State) (order : OrderSerial) : Bool :=
  s.au.held.any (fun f => f.kind == .take && f.subject == order && f.detail == 255)

/-- What the producing block notes when its frame has been accepted: the own BID stands in the queue (R32), an
announced entry loses its mark (R137). -/
def noteAccepted (f : Frame) (s : State) : State :=
  match f.kind with
  | .bid => changeAuction f.subject (fun e => { e with ownBid := .queued }) s
  | .available => changeShelf (BitVec.ofNat 24 f.subject.toNat) (fun e => { e with mark := false }) s
  | _ => s

/-- A block offers a new frame; a refused one stays with it, behind those it already holds (R15). -/
def offerFrame (b : Producer) (f : Frame) (s : State) : State :=
  match tryOffer f s with
  | some s' => noteAccepted f s'
  | none => setHeld b (heldOf b s ++ [f]) s

/-- SHU holds an AVAILABLE that FLI refused. -/
def announcing (s : State) : Bool := s.shu.held.any (fun f => f.kind == .available)

/-- SHU treats one marked entry (R137): it is announced with its free copies of this moment, or loses its mark
when it has none. -/
def announceEntry (s : State) (title : Title) : State :=
  match shelfOf s title with
  | some e =>
    if !e.mark || announcing s then s
    else if freeCopies s title = 0 then changeShelf title (fun e => { e with mark := false }) s
    else offerFrame .shu (availableFrame title (freeCopies s title)) s
  | none => s

/-- SHU offers AVAILABLE for the marked entries, lowest position first, one at a time, while the station is
not paused (R137). -/
def announce (s : State) : State :=
  if s.pp.pause then s else (s.shu.shelf.map (fun e => e.2.title)).foldl announceEntry s

/-- The title that an AVAILABLE announces. -/
def announcedTitle (f : Frame) : Title := BitVec.ofNat 24 f.subject.toNat

/-- SHU makes its oldest held offer, an AVAILABLE, again with the free copies of this moment; refused again it keeps its
place, and once it is out of the way SHU goes on to the next marked entry (R137, R15). One whose title has no free copy
left is dropped with its mark; the free entry goes to the next marked entry, and SHU's other held frames wait for a later
one (DESIGN CHOICE, log 58). The next marked entry is that of the lowest position, also where it was marked while the held
one waited and lies below it (DESIGN CHOICE, log 91). -/
def announceAgain (f : Frame) (rest : List Frame) (s : State) : State :=
  let title := announcedTitle f
  if s.pp.pause then s
  else if freeCopies s title = 0 then
    announce (changeShelf title (fun e => { e with mark := false }) (setHeld .shu rest s))
  else
    match tryOffer (availableFrame title (freeCopies s title)) s with
    | some s' => announce (noteAccepted (availableFrame title (freeCopies s title)) (setHeld .shu rest s'))
    | none => s

/-- AU no longer holds the TAKE of an order: WQ offers the CLOSED that waited for it (R54). It is offered then, as a new
frame, and a refused one stands behind those that WQ already holds (DEDUCED, log 40). -/
def releaseClosed (order : OrderSerial) (s : State) : State :=
  if holdsTake s order then s
  else
    (s.wq.early.filter (fun f => f.subject == order)).foldl (fun s f => offerFrame .wq f s)
      { s with wq := { s.wq with early := s.wq.early.filter (fun f => f.subject != order) } }

/-- A frame that a block held has been accepted: a whole-order TAKE of AU lets a CLOSED of WQ go (R54). -/
def heldAccepted (b : Producer) (f : Frame) (s : State) : State :=
  if b = .au ∧ f.kind = .take then releaseClosed f.subject s else s

/-- A block told of a freed entry offers its oldest held frame again (R15); a held AVAILABLE with the free copies of
this moment (R137). -/
def offerAgain (b : Producer) (s : State) : State :=
  match heldOf b s with
  | [] => s
  | f :: rest =>
    if b = .shu ∧ f.kind = .available then announceAgain f rest s
    else
      match tryOffer f s with
      | some s' => heldAccepted b f (noteAccepted f (setHeld b rest s'))
      | none => s

/-- The blocks that hold a refused frame. -/
def holders (s : State) : List Producer :=
  [Producer.au, .wq, .isc, .shu, .lu, .rti].filter (fun b => !(heldOf b s).isEmpty)

/-- The arrangement of a list that `i` names: its first element is the one at `i` modulo the length, the others follow
as the quotient arranges them. Every order is named by some `i`; `n` bounds the length. -/
def arrange {α : Type} : Nat → Nat → List α → List α
  | 0, _, _ => []
  | n + 1, i, xs =>
    match xs[i % xs.length]? with
    | none => []
    | some x => x :: arrange n (i / xs.length) (xs.eraseIdx (i % xs.length))

/-- Every block that holds a refused frame is told of a freed entry (R15). Where several do, the order in which their
offers are taken is a free value, any order of them (DESIGN CHOICE, log 8). -/
def tellHolders (s : State) : State :=
  match holders s with
  | [] => s
  | [b] => offerAgain b s
  | bs =>
    (arrange bs.length (Config.offerOrder s.raceCount) bs).foldl (fun s b => offerAgain b s)
      { s with raceCount := s.raceCount + 1 }

/-- One entry of the control queue has become free (R15). -/
def entryFreed (s : State) : State := tellHolders s

/-- `n` entries have become free, one after another. -/
def entriesFreed : Nat → State → State
  | 0, s => s
  | n + 1, s => entriesFreed n (entryFreed s)

/-- The BIDs of an order. -/
def isBidFor (order : OrderSerial) (f : Frame) : Bool := f.kind == .bid && f.subject == order

/-- FLI removes every queued BID of the order whose sending has not begun; the head that is being sent stays
and is marked, to be removed if its readback fails (R16). -/
def withdrawQueued (order : OrderSerial) (s : State) : State :=
  match s.fli.sending, s.fli.queue with
  | some .control, head :: rest =>
    let kept := rest.filter (fun f => !isBidFor order f)
    entriesFreed (rest.length - kept.length)
      { s with fli := { s.fli with queue := head :: kept,
                                   withdrawHead := s.fli.withdrawHead || isBidFor order head } }
  | _, q =>
    let kept := q.filter (fun f => !isBidFor order f)
    entriesFreed (q.length - kept.length) { s with fli := { s.fli with queue := kept } }

/-- AU withdraws its own BID for an order: a held one is discarded, queued ones are withdrawn (R16, R32). -/
def withdrawBid (order : OrderSerial) (s : State) : State :=
  withdrawQueued order { s with au := { s.au with held := s.au.held.filter (fun f => !isBidFor order f) } }

end Sys2Proof.Machine
end

