-- ==== Sys2Proof/Machine/Pool.lean ====
section
/-! DEFINITION. The cartridge pool (chapter 6): records by serial, entering a state, insertion, eviction
and leaving the pool. -/

namespace Sys2Proof.Machine

/-- The record of a serial (R114). -/
def cartOf (s : State) (serial : CartSerial) : Option CartRecord :=
  (s.cp.records.find? (fun e => e.2.serial == serial)).map (·.2)

/-- Changes the record of a serial without its entering a state. -/
def changeCart (serial : CartSerial) (f : CartRecord → CartRecord) (s : State) : State :=
  let records := s.cp.records.map (fun e => if e.2.serial = serial then (e.1, f e.2) else e)
  { s with cp := { s.cp with records := records } }

/-- The record of a serial enters a state: the stamp counter rises by 1 and the record takes it (R116). A
record already in the state does not enter it. -/
def enterState (serial : CartSerial) (st : CartState) (s : State) : State :=
  match cartOf s serial with
  | none => s
  | some r =>
    if r.state = st then s
    else
      changeCart serial (fun r => { r with state := st, stamp := bump 4294967295 s.cp.stamp })
        { s with cp := { s.cp with stamp := bump 4294967295 s.cp.stamp } }

/-- The number of records in a state (R126). -/
def countState (s : State) (st : CartState) : Nat :=
  (s.cp.records.filter (fun e => e.2.state == st)).length

/-- The conditions of a planned cartridge (R49). -/
inductive Condition where
  | unassigned | linked | written
  deriving DecidableEq, Repr

/-- The condition of a planned cartridge (R49): once its cartridge has reached Written it stays written (R52). -/
def conditionOf (pc : PlannedCart) : Condition :=
  if pc.written then .written else if pc.link.isSome then .linked else .unassigned

/-- The unassigned planned cartridges (R49). -/
def unassignedCount (s : State) : Nat := (s.wq.plan.filter (fun e => conditionOf e.2 == .unassigned)).length

/-- The available blanks A (R124). -/
def availableBlanks (s : State) : Nat :=
  countState s .ready + countState s .blank - unassignedCount s

/-! ## Making room (R119) -/

/-- The oldest of the records that satisfy `p`: lowest stamp, at equal stamps lowest position (R116). -/
def oldestCart (s : State) (p : CartRecord → Bool) : Option Nat :=
  ((sortBy (fun e => e.2.stamp) (s.cp.records.filter (fun e => p e.2))).head?).map (·.1)

/-- The record that an entry into a full pool evicts (R119). -/
def evictable (s : State) : Option Nat :=
  match oldestCart s (fun r => (r.state == .faulted || r.state == .retired) && r.socket.isNone) with
  | some k => some k
  | none => oldestCart s (fun r => r.state == .blank)

/-- Enters a new record at the lowest free position, evicting one record from a full pool; `none` when no room
can be made (R114, R116, R119). -/
def enterCart (r : CartRecord) (s : State) : Option State :=
  let stamped : CartRecord := { r with stamp := bump 4294967295 s.cp.stamp }
  match Table.firstFree 512 s.cp.records with
  | some k =>
    some { s with cp := { records := Table.put k stamped s.cp.records, stamp := bump 4294967295 s.cp.stamp } }
  | none =>
    match evictable s with
    | some k =>
      some { s with cp := { records := Table.put k stamped (Table.drop k s.cp.records),
                            stamp := bump 4294967295 s.cp.stamp } }
    | none => none

/-! ## Insertion (R117, R118) -/

/-- CP's answer to DE (R93). -/
inductive CpAnswer where
  | ready | written | erase
  | refused (reason : SocketReason)
  deriving DecidableEq, Repr

/-- An unknown serial is entered as Ready or Dirty by its erased flag (R117). -/
def insertUnknown (k : SocketNo) (h : Header) (s : State) : State × CpAnswer :=
  let r : CartRecord :=
    { serial := h.serial, capClass := h.capClass, e := h.e, wear := h.wear,
      state := if h.erased then .ready else .dirty, socket := some k, link := none, tag := none, stamp := 0 }
  match enterCart r s with
  | some s' => (s', if h.erased then .ready else .erase)
  | none => (s, .refused .poolFull)

/-- The state of the bundle to which a plan slot belongs. -/
def bundleOfSlot (s : State) (slot : Nat) : Option BundleState :=
  match s.wq.plan.at? slot with
  | none => none
  | some pc =>
    match s.wq.records.find? (fun r => r.order == pc.order) with
    | none => none
    | some r => (r.bundles.find? (fun b => b.number == pc.bundle)).map (·.state)

/-- A Packed record's bundle has begun to pack: it is in Packing or Laned (R118). -/
def inLane (s : State) (r : CartRecord) : Bool :=
  match r.link.bind (bundleOfSlot s) with
  | some .packing => true
  | some .laned => true
  | _ => false

/-- A known serial: the header's capacity class, e and wear are written, and the answer goes by the record's
state (R118). Assigned, Writing, Verifying and Erasing are refused by DE before CP is asked (R92). -/
def insertKnown (k : SocketNo) (h : Header) (r : CartRecord) (s : State) : State × CpAnswer :=
  let s := changeCart h.serial (fun r => { r with capClass := h.capClass, e := h.e, wear := h.wear }) s
  let seat := changeCart h.serial (fun r => { r with socket := some k })
  match r.state with
  | .blank | .ready =>
    if h.erased then (enterState h.serial .ready (seat s), .ready)
    else (enterState h.serial .dirty (seat s), .erase)
  | .returned | .dirty | .missing => (seat s, .erase)
  | .written => (seat s, .written)
  | .packed =>
    if inLane s r then (s, .refused .inLane)
    else (enterState h.serial .written (seat s), .written)
  | .out => (s, .refused .onLoan)
  | .faulted => (s, .refused .faulted)
  | .retired => (s, .refused .retired)
  | .assigned | .writing | .verifying | .erasing => (s, .refused .serialInAnotherSocket)

/-- DE hands a valid header to CP (R93). -/
def insertCart (k : SocketNo) (h : Header) (s : State) : State × CpAnswer :=
  match cartOf s h.serial with
  | none => insertUnknown k h s
  | some r => insertKnown k h r s

/-! ## Leaving (R122, R123) -/

/-- The record of a serial leaves the pool if it is Out with the given tag (R122, R123). -/
def leavePool (tag : LoanTag) (s : State) (serial : CartSerial) : State :=
  let records := s.cp.records.filter
    (fun e => !(e.2.serial == serial && e.2.state == .out && e.2.tag == some tag))
  { s with cp := { s.cp with records := records } }

end Sys2Proof.Machine
end

