-- ==== Sys2Proof/Machine/Plan.lean ====
section
/-! DEFINITION. The fill plan (R23, R24, R55), the plan store (R49 to R51) and the states of bundles (R52). -/

namespace Sys2Proof.Machine

/-! ## The fill plan -/

/-- G for an erase-group exponent. -/
def groupOf (e : Nat) : Nat := 2 ^ e

/-- The padded length of a length (R50). -/
def padded (g l : Nat) : Nat := ceilDiv l g * g

/-- A run of an image to be placed: for an item placed whole, the whole image. -/
structure Run where
  item  : Nat
  start : Nat
  len   : Nat
  deriving DecidableEq, Repr

/-- The walk of R24: the cartridges closed so far (last first), the current cartridge's placements (last
first) and the start that its next placement would take. -/
structure Layout where
  closed : List (List Placement)
  cur    : List Placement
  next   : Nat
  deriving DecidableEq, Repr

/-- The walk before the first placement. -/
def Layout.start (g : Nat) : Layout := { closed := [], cur := [], next := g }

/-- Puts one placement on the current cartridge. -/
def Layout.place (g : Nat) (r : Run) (part : Nat) (l : Layout) : Layout :=
  { l with cur := { item := r.item, part := part, imageStart := r.start, length := r.len,
                    cartStart := l.next } :: l.cur,
           next := l.next + padded g r.len }

/-- Opens a new cartridge: the previous one is closed if it holds any placement, else discarded. -/
def Layout.open (g : Nat) (l : Layout) : Layout :=
  { closed := if l.cur.isEmpty then l.closed else l.cur :: l.closed, cur := [], next := g }

/-- Case 3 of R24: `n` parts are still to be placed, the next being part `k`; every part but the last is U
sectors long. -/
def Layout.split (g u item : Nat) : Nat → Nat → Nat → Nat → Layout → Layout
  | 0, _, _, _, l => l
  | n + 1, k, start, left, l =>
    let len := if n = 0 then left else u
    Layout.split g u item n (k + 1) (start + len) (left - len)
      (Layout.place g { item := item, start := start, len := len } k (Layout.open g l))

/-- One run placed by the first case of R24 that applies. A cartridge with 8 placements counts as having no
free space (R49, R55). -/
def Layout.add (k g : Nat) (l : Layout) (r : Run) : Layout :=
  let u := k - g
  let p := padded g r.len
  if l.cur.length < 8 && p ≤ k - l.next then Layout.place g r 0 l
  else if p ≤ u then Layout.place g r 0 (Layout.open g l)
  else Layout.split g u r.item (ceilDiv r.len u) 0 r.start r.len l

/-- The planned cartridges of the walk over the runs, in the order opened, each with its placements in
cartridge order (R24). -/
def fillPlan (k g : Nat) (runs : List Run) : List (List Placement) :=
  ((Layout.open g (runs.foldl (Layout.add k g) (Layout.start g))).closed.map List.reverse).reverse

/-- The sum of the padded lengths of all placements: S of R24. -/
def paddedSum (g : Nat) (carts : List (List Placement)) : Nat :=
  (carts.flatten.map (fun p => padded g p.length)).sum

/-- The bundle count of R24. -/
def bundleCount (n freeBraille : Nat) : Nat :=
  if n = 0 then (if freeBraille = 0 then 0 else 1) else ceilDiv n 4

/-! ## Sizes -/

/-- The directory entry of an image. -/
def entryOf (s : State) (name : ImageName) : Option DirEntry :=
  (s.isc.directory.find? (fun e => e.2.name == name)).map (·.2)

/-- The best-known size (R23, R47): the directory's if an entry holds it, the given one otherwise. -/
def bestSize (s : State) (name : ImageName) (offered : Nat) : Nat :=
  match entryOf s name with
  | some e => if e.size = 0 then offered else e.size
  | none => offered

def Item.image (i : Item) : ImageName := { title := i.title, version := i.version }

def WorkItem.image (i : WorkItem) : ImageName := { title := i.title, version := i.version }

/-- The nominal K and G (R23). -/
def nominalK (s : State) : Nat := capacityOf s.cfl.settings.nominalClass

def nominalG (s : State) : Nat := groupOf s.cfl.settings.nominalE

/-- The runs of an offer's audio items, in item order, with best-known sizes (R23). -/
def offerRuns (s : State) (o : Offer) : List Run :=
  (o.items.zipIdx.filter (fun x => x.1.kind == .audio)).map
    (fun x => { item := x.2, start := 0, len := bestSize s x.1.image x.1.amount })

/-- The fill plan of an offer on nominal values (R23, R24). -/
def offerPlan (s : State) (o : Offer) : List (List Placement) :=
  fillPlan (nominalK s) (nominalG s) (offerRuns s o)

/-! ## Records and planned cartridges -/

/-- The work record of an order. -/
def recordOf (s : State) (order : OrderSerial) : Option WorkRecord :=
  s.wq.records.find? (fun r => r.order == order)

/-- The auction entry of an order. -/
def auctionOf (s : State) (order : OrderSerial) : Option AuctionEntry :=
  (s.au.entries.find? (fun e => e.2.order == order)).map (·.2)

/-- Changes the work record of an order. -/
def changeRecord (order : OrderSerial) (f : WorkRecord → WorkRecord) (s : State) : State :=
  let records := s.wq.records.map (fun r => if r.order = order then f r else r)
  { s with wq := { s.wq with records := records } }

/-- Changes the bundle of that number in a record. -/
def WorkRecord.changeBundle (n : Nat) (f : Bundle → Bundle) (r : WorkRecord) : WorkRecord :=
  { r with bundles := r.bundles.map (fun b => if b.number = n then f b else b) }

/-- Changes the item of that index in a record. -/
def WorkRecord.changeItem (i : Nat) (f : WorkItem → WorkItem) (r : WorkRecord) : WorkRecord :=
  { r with items := r.items.map (fun x => if x.index = i then f x else x) }

def WorkRecord.item? (r : WorkRecord) (i : Nat) : Option WorkItem := r.items.find? (fun x => x.index == i)

def WorkRecord.bundle? (r : WorkRecord) (n : Nat) : Option Bundle := r.bundles.find? (fun b => b.number == n)

/-- The hold count: the number of items in Held (R48). -/
def WorkRecord.holdCount (r : WorkRecord) : Nat := (r.items.filter (fun x => x.state == .held)).length

/-- Changes the planned cartridge in a slot. -/
def changePlan (slot : Nat) (f : PlannedCart → PlannedCart) (s : State) : State :=
  { s with wq := { s.wq with plan := Table.change slot f s.wq.plan } }

/-- The planned cartridges of a bundle with their slots, in position order (R52). -/
def bundleCarts (s : State) (order : OrderSerial) (bundle : Nat) : Table PlannedCart :=
  sortBy (fun e => e.2.position) (s.wq.plan.filter (fun e => e.2.order == order && e.2.bundle == bundle))

/-- The planned cartridges of a record with their slots, in bundle and position order. -/
def recordCarts (s : State) (r : WorkRecord) : Table PlannedCart :=
  r.bundles.flatMap (fun b => bundleCarts s r.order b.number)

/-- Every planned cartridge in queue order: records in order, bundles in order, positions in order (R76, R99). -/
def plansInOrder (s : State) : Table PlannedCart := s.wq.records.flatMap (recordCarts s)

/-- The image that a placement of a planned cartridge names. -/
def placementImage (s : State) (pc : PlannedCart) (p : Placement) : Option ImageName :=
  ((recordOf s pc.order).bind (fun r => r.item? p.item)).map WorkItem.image

/-- The images that a planned cartridge's placements name, in placement order. -/
def cartImages (s : State) (pc : PlannedCart) : List ImageName := pc.placements.filterMap (placementImage s pc)

/-- The cartridge starts recomputed for an erase group: G for the first placement, then the previous start
plus the previous padded length (R50). -/
def restart (g : Nat) : Nat → List Placement → List Placement
  | _, [] => []
  | at', p :: ps => { p with cartStart := at' } :: restart g (at' + padded g p.length) ps

/-- A planned cartridge's figures recomputed with erase group `g` (R50). -/
def PlannedCart.refigure (g : Nat) (pc : PlannedCart) : PlannedCart :=
  { pc with placements := restart g g pc.placements }

/-- The erase group of a planned cartridge: its cartridge's while it has a link, else the nominal one (R50). -/
def cartGroup (s : State) (pc : PlannedCart) : Nat :=
  match pc.link.bind (cartOf s) with
  | some r => groupOf r.e
  | none => nominalG s

/-- The duplication backlog B: the padded lengths of all planned cartridges that are unassigned or linked
(R26, R50). -/
def backlog (s : State) : Nat :=
  ((s.wq.plan.filter (fun e => conditionOf e.2 != .written)).map
    (fun e => (e.2.placements.map (fun p => padded (cartGroup s e.2) p.length)).sum)).sum

/-! ## Bundle states (R52) -/

/-- The state of a bundle not yet in Packing, from its contents. -/
def contentState (conds : List Condition) (riders : List Rider) : BundleState :=
  if conds.isEmpty then (if riders.isEmpty then .mailed else .written)
  else if conds.all (fun c => c == .written) then .written
  else if conds.any (fun c => c != .unassigned) then .producing
  else .waiting

/-- MLC's states are not set from the contents (R53). -/
def BundleState.inLane : BundleState → Bool
  | .packing | .laned | .mailed => true
  | _ => false

/-- The bundle with its state set anew; on becoming Written each riding item's pick is Pending (R52, R159). -/
def Bundle.renew (conds : List Condition) (b : Bundle) : Bundle :=
  if b.state.inLane then b
  else
    let st := contentState conds b.riders
    if st = .written && b.state != .written then
      { b with state := st, riders := b.riders.map (fun r => { r with pick := some .pending }) }
    else { b with state := st }

/-- The conditions of a bundle's planned cartridges. -/
def bundleConditions (s : State) (order : OrderSerial) (n : Nat) : List Condition :=
  (bundleCarts s order n).map (fun e => conditionOf e.2)

/-- The position of a work record in the queue. -/
def recordIndex (s : State) (order : OrderSerial) : Nat := s.wq.records.findIdx (fun r => r.order == order)

/-- PickList once for each riding item in ascending item index (R159). -/
def raisePicks (index : Nat) (riders : List Rider) (s : State) : State :=
  (sortBy id (riders.map (·.item))).foldl (fun s i => raise (.pickList index i) s) s

/-- The state of one bundle is set anew; a bundle that becomes Written with riding items raises PickList. -/
def renewBundle (order : OrderSerial) (s : State) (b : Bundle) : State :=
  let b' := b.renew (bundleConditions s order b.number)
  let s' := changeRecord order (WorkRecord.changeBundle b.number (fun _ => b')) s
  if b'.state = .written && b.state != .written then raisePicks (recordIndex s order) b.riders s' else s'

/-- Every bundle state of a record is set anew. -/
def renewRecord (s : State) (order : OrderSerial) : State :=
  match recordOf s order with
  | none => s
  | some r => r.bundles.foldl (renewBundle order) s

/-- Every bundle state of every record is set anew, in queue order; the PickList events of several bundles that become
Written in one act go in that order (DESIGN CHOICE, log 83). -/
def renewBundles (s : State) : State := (s.wq.records.map (·.order)).foldl renewRecord s

/-! ## Links -/

/-- The planned cartridge for which a cartridge is being made: the linked one of its serial, not yet written. -/
def PlannedCart.madeOn (serial : CartSerial) (pc : PlannedCart) : Bool := pc.link == some serial && !pc.written

/-- The slot of the planned cartridge that is linked to a cartridge. -/
def slotLinkedTo (s : State) (serial : CartSerial) : Option Nat :=
  (s.wq.plan.find? (fun e => e.2.madeOn serial)).map (·.1)

/-- DE owes a walk of the plan store (R99). -/
def oweWalk (s : State) : State := { s with de := { s.de with walkDue := true } }

/-- A linked planned cartridge loses its link and returns to nominal figures (R57); the walk runs for it (R99). -/
def unlinkPlan (serial : CartSerial) (s : State) : State :=
  let s := if (slotLinkedTo s serial).isSome then oweWalk s else s
  let plan := s.wq.plan.map
    (fun e => if e.2.madeOn serial then (e.1, ({ e.2 with link := none } : PlannedCart).refigure (nominalG s)) else e)
  { s with wq := { s.wq with plan := plan } }

/-- The cartridge of a planned cartridge has reached Written, and so has the planned cartridge (R56). -/
def writtenPlan (serial : CartSerial) (s : State) : State :=
  let plan := s.wq.plan.map (fun e => if e.2.madeOn serial then (e.1, { e.2 with written := true }) else e)
  { s with wq := { s.wq with plan := plan } }

/-- An Out cartridge has lost its link at the chute: the planned cartridge in the slot loses the serial and stays
written (R121, R125, R52; log 48). -/
def unlinkReturned (serial : CartSerial) (slot : Nat) (s : State) : State :=
  changePlan slot (fun pc => if pc.link = some serial then { pc with link := none } else pc) s

/-- A planned cartridge is freed; the link of its cartridge's record to it is cleared (R49, R115). -/
def freePlan (s : State) (slot : Nat) : State :=
  let s' := { s with wq := { s.wq with plan := Table.drop slot s.wq.plan } }
  match (s.wq.plan.at? slot).bind (·.link) with
  | some serial => changeCart serial (fun r => if r.link = some slot then { r with link := none } else r) s'
  | none => s'

/-- The planned cartridges of a new layout enter free slots of the plan store, the lowest-numbered first (DESIGN CHOICE,
log 32), each at its bundle and position (R49, R55), and the walk runs for them (R99). Both callers have tested that
there are slots enough. -/
def enterPlans (order : OrderSerial) : List ((Nat × Nat) × List Placement) → State → State
  | [], s => s
  | ((bundle, position), ps) :: rest, s =>
    match Table.firstFree 128 s.wq.plan with
    | none => s
    | some slot =>
      let pc : PlannedCart :=
        { order := order, bundle := bundle, position := position, placements := ps, link := none,
          written := false, loadAsked := false }
      enterPlans order rest (oweWalk { s with wq := { s.wq with plan := Table.put slot pc s.wq.plan } })

/-- The free slots of the plan store. -/
def freeSlots (s : State) : Nat := 128 - s.wq.plan.length

/-! ## Parts (R49) -/

/-- The part numbers of a record's placements: for each item, rising with the image start from 0 across the
whole record (R49), the placements of an item that has failed among them (DEDUCED, log 47). -/
def renumberParts (s : State) (order : OrderSerial) : State :=
  let mine := s.wq.plan.filter (fun e => e.2.order == order)
  let all := mine.flatMap (fun e => e.2.placements)
  let part := fun (p : Placement) => (all.filter (fun q => q.item == p.item && q.imageStart < p.imageStart)).length
  let plan := s.wq.plan.map fun e =>
    if e.2.order = order then
      (e.1, { e.2 with placements := e.2.placements.map (fun p => { p with part := part p }) })
    else e
  { s with wq := { s.wq with plan := plan } }

/-! ## Chute entry (R121) -/

/-- RTI hands CP the serial of a returned cartridge (R121). A record that no row of R121 names, Ready or Written with no
socket while the rack is identified anew, stays as it is (DESIGN CHOICE, log 53). -/
def chuteEntry (s : State) (serial : CartSerial) : State :=
  match cartOf s serial with
  | none =>
    (enterCart { serial := serial, capClass := 0, e := 0, wear := 0, state := .returned, socket := none,
                 link := none, tag := none, stamp := 0 } s).getD s
  | some r =>
    match r.state with
    | .out =>
      let s := enterState serial .returned
        (changeCart serial (fun r => { r with tag := none, link := none, socket := none }) s)
      match r.link with
      | some slot => unlinkReturned serial slot s
      | none => s
    | .blank | .dirty | .missing | .returned =>
      if r.socket.isSome then s else enterState serial .returned s
    | _ => s

end Sys2Proof.Machine
end

