-- ==== Sys2Proof/Machine/Shelf.lean ====
section
/-! DEFINITION. The shelf and hold unit (chapter 7) with the item takes by which a braille item enters the work
queue (R62 to R64). -/

namespace Sys2Proof.Machine

/-! ## Reservation (R131) -/

/-- A copy of the title is promised. -/
def reserveCopy (title : Title) (s : State) : State :=
  changeShelf title (fun e => { e with reserved := e.reserved + 1 }) s

/-- A promised copy is released: it is free again and the title is owed a serve pass (R131, R136). -/
def releaseCopy (title : Title) (s : State) : State :=
  let s := changeShelf title (fun e => { e with reserved := e.reserved - 1 }) s
  { s with shu := { s.shu with due := s.shu.due ++ [title] } }

/-- A copy of the title has become free in another way: a serve pass is owed (R136). -/
def owePass (title : Title) (s : State) : State := { s with shu := { s.shu with due := s.shu.due ++ [title] } }

/-- An entry whose copies owned have fallen to 0 is freed (R128). -/
def dropEmptyShelf (s : State) : State :=
  { s with shu := { s.shu with shelf := s.shu.shelf.filter (fun e => e.2.owned != 0) } }

/-- The first container of a copy set has entered its bin: the copy leaves the shelf (R131). -/
def copyLeaves (title : Title) (s : State) : State :=
  changeShelf title (fun e => { e with onShelf := e.onShelf - 1, reserved := e.reserved - 1 }) s

/-! ## Item takes (R62, R63) -/

/-- A record takes its place at the tail of its urgency group (R46). -/
def enqueueRecord (r : WorkRecord) (rs : List WorkRecord) : List WorkRecord :=
  insertBy (fun r => match r.urgency with | .urgent => 0 | .normal => 1) r rs

/-- WQ has room for an item take (R62). -/
def hasRoom (s : State) (order : OrderSerial) (item : Nat) : Bool :=
  match recordOf s order with
  | some r =>
    r.endMark == .none && r.bundles.length < 8
      && (match r.item? item with | some i => i.state == .held | none => true)
  | none => s.wq.records.length < 32

/-- The item entry of an item take. -/
def takenItem (h : Hold) : WorkItem :=
  { index := h.item, kind := .braille, title := h.title, version := h.version, amount := h.volumes,
    state := .planned, holdServed := true }

/-- The item of an item take joins an existing record: a Held item becomes Planned, an absent one is added
under its index (R63). -/
def WorkRecord.joinItem (h : Hold) (r : WorkRecord) : WorkRecord :=
  let items :=
    if (r.item? h.item).isSome then
      r.items.map (fun x => if x.index = h.item then { x with state := .planned, holdServed := true } else x)
    else insertBy (·.index) (takenItem h) r.items
  { r with
    items := items
    bundles := r.bundles ++
      [{ number := r.bundles.length + 1, riders := [{ item := h.item, pick := none, copySet := none }],
         state := .waiting, containers := [] }] }

/-- The new record of an item take (R63). -/
def takenRecord (h : Hold) : WorkRecord :=
  { order := h.order, patron := h.patron, zone := h.zone, urgency := h.urgency, takenWhole := false,
    precedence := none, sources := [], items := [takenItem h],
    bundles := [{ number := 1, riders := [{ item := h.item, pick := none, copySet := none }],
                  state := .waiting, containers := [] }],
    endMark := .none, gateCount := 0, mailedTags := [] }

/-- An item take of the hold's (order serial, item index), the copy already reserved (R63). The new bundle is
braille-only and so Written at once (R52). -/
def itemTake (h : Hold) (s : State) : State :=
  let s' :=
    match recordOf s h.order with
    | some _ => changeRecord h.order (WorkRecord.joinItem h) s
    | none => { s with wq := { s.wq with records := enqueueRecord (takenRecord h) s.wq.records } }
  renewRecord s' h.order

/-- SHU removed the hold of a Held item for another cause than serving it: the item becomes Cancelled, if the
record stands (R64). -/
def cancelHeldItem (order : OrderSerial) (item : Nat) (s : State) : State :=
  changeRecord order
    (WorkRecord.changeItem item (fun x => if x.state = .held then { x with state := .cancelled } else x)) s

/-! ## Holds (R133, R134) -/

/-- Hold order: by placed day, an unset one above every day number, then by sequence (R133). -/
def holdKey (h : Hold) : Nat := (h.placed.getD 65536) * 4294967296 + h.seq

def isHold (order : OrderSerial) (item : Nat) (h : Hold) : Bool := h.order == order && h.item == item

def holdOf (s : State) (order : OrderSerial) (item : Nat) : Option Hold := s.shu.holds.find? (isHold order item)

def removeHold (order : OrderSerial) (item : Nat) (s : State) : State :=
  { s with shu := { s.shu with holds := s.shu.holds.filter (fun h => !isHold order item h) } }

def changeHold (order : OrderSerial) (item : Nat) (f : Hold → Hold) (s : State) : State :=
  let holds := s.shu.holds.map (fun h => if isHold order item h then f h else h)
  { s with shu := { s.shu with holds := holds } }

/-- A hold is created at a whole take, unless one for the item already stands (R134). The hold-room tests of R21 and
R35 leave a free record for it. It stands behind the holds of its placed day, also where the counter has stopped and they
have its sequence (DESIGN CHOICE, log 81). -/
def createHold (order : OrderSerial) (index : Nat) (o : Offer) (i : Item) (s : State) : State :=
  if (holdOf s order index).isSome || 128 ≤ s.shu.holds.length then s
  else
    let seq := bump 4294967295 s.shu.seq
    let h : Hold :=
      { order := order, item := index, title := i.title, version := i.version, volumes := i.amount,
        patron := o.patron, zone := o.zone, urgency := o.urgency,
        placed := if s.lu.dayKnown then some s.lu.day else none, seq := seq, offered := none,
        setAside := false }
    { s with shu := { s.shu with holds := insertBy holdKey h s.shu.holds, seq := seq } }

/-- Every unset placed day takes the day number of a DAY that is taken (R134, R150). -/
def fillPlacedDays (day : Nat) (s : State) : State :=
  let holds := s.shu.holds.map (fun h => if h.placed.isNone then { h with placed := some day } else h)
  { s with shu := { s.shu with holds := sortBy holdKey holds } }

/-! ## Serving (R135, R136) -/

/-- A hold has room: WQ has, and its order serial stands in no auction entry (R135). -/
def holdHasRoom (s : State) (h : Hold) : Bool := hasRoom s h.order h.item && (auctionOf s h.order).isNone

/-- Serves a hold; a set-aside copy passes on without a second reservation (R135). -/
def serveHold (h : Hold) (s : State) : State :=
  let s := removeHold h.order h.item s
  itemTake h (if h.setAside then s else reserveCopy h.title s)

/-- Before the steps of a serve pass: a Waiting hold whose order's record holds its item in a state other
than Held is removed, its set-aside copy becoming free for the pass's steps (R135). That copy owes no further pass, and in
a pass that R136 asks for on another ground than a freed copy it brings no announce mark (DESIGN CHOICE, log 88). -/
def dropFilled (s : State) (h : Hold) : State :=
  match (recordOf s h.order).bind (fun r => r.item? h.item) with
  | some i =>
    if i.state = .held then s
    else
      let s := removeHold h.order h.item s
      if h.setAside then changeShelf h.title (fun e => { e with reserved := e.reserved - 1 }) s else s
  | none => s

/-- First step, one hold: a set-aside hold with room is served. -/
def serveSetAside (s : State) (h : Hold) : State := if holdHasRoom s h then serveHold h s else s

/-- The hold's order has a record with 8 bundles, or stands in the auction table (R135's second row). -/
def mustSetAside (s : State) (h : Hold) : Bool :=
  (match recordOf s h.order with | some r => r.bundles.length == 8 | none => false)
    || (auctionOf s h.order).isSome

/-- Second step, one hold: while the title has a free copy it is served, has a copy set aside, or is passed
over. A hold whose order stands in the auction table, with no record of it and no free record in the work queue, fits
the second and the third row of R135's table: it has a copy set aside (DESIGN CHOICE, log 86). -/
def serveFree (s : State) (h : Hold) : State :=
  if freeCopies s h.title = 0 then s
  else if holdHasRoom s h then serveHold h s
  else if mustSetAside s h then
    changeHold h.order h.item (fun h => { h with setAside := true }) (reserveCopy h.title s)
  else s

/-- The Waiting holds of a title, with or without a set-aside copy, in hold order. -/
def waitingHolds (s : State) (title : Title) (setAside : Bool) : List Hold :=
  s.shu.holds.filter (fun h => h.title == title && h.offered.isNone && h.setAside == setAside)

/-- A serve pass for a title (R135). -/
def servePass (s : State) (title : Title) : State :=
  let s := (s.shu.holds.filter (fun h => h.title == title && h.offered.isNone)).foldl dropFilled s
  let s := (waitingHolds s title true).foldl serveSetAside s
  (waitingHolds s title false).foldl serveFree s

/-- The first step of a serve pass for every title (R136: a record is created or leaves, or an auction entry is
freed): one walk of the hold list, whatever the titles (DESIGN CHOICE, log 72). -/
def serveAllSetAside (s : State) : State :=
  (s.shu.holds.filter (fun h => h.offered.isNone && h.setAside)).foldl serveSetAside s

/-- A serve pass for every title (R66, R144): titles in shelf position order, then titles of holds without
an entry (log 7). -/
def serveAll (s : State) : State :=
  (s.shu.shelf.map (fun e => e.2.title) ++
    (s.shu.holds.map (·.title)).filter (fun t => (shelfOf s t).isNone)).foldl servePass s

/-- A pass of the first kind: when free copies are left, the entry's announce mark is set (R136). -/
def serveAndMark (s : State) (title : Title) : State :=
  let s := servePass s title
  if freeCopies s title = 0 then s else changeShelf title (fun e => { e with mark := true }) s

/-- The serve passes owed in this act are run, one for each copy that became free, in the order in which the copies
became free (DESIGN CHOICE, log 76), then the first step for every title. -/
def serveDue (s : State) : State :=
  let due := s.shu.due
  serveAllSetAside (due.foldl serveAndMark { s with shu := { s.shu with due := [] } })

/-! ## Stock changes (R129, R130, R132) -/

/-- ShelfAdd (R129): `none` when refused. -/
def shelfAdd (title : Title) (volumes copies : Nat) (s : State) : Option State :=
  if volumes < 1 || 12 < volumes || copies < 1 || 255 < copies then none
  else
    match shelfOf s title with
    | some e =>
      if e.perCopy != volumes || 255 < e.owned + copies then none
      else
        some (owePass title (changeShelf title
          (fun e => { e with owned := e.owned + copies, onShelf := e.onShelf + copies }) s))
    | none =>
      match Table.firstFree 1024 s.shu.shelf with
      | none => none
      | some k =>
        let e : ShelfEntry :=
          { title := title, perCopy := volumes, owned := copies, onShelf := copies, reserved := 0, mark := false }
        some (owePass title { s with shu := { s.shu with shelf := Table.put k e s.shu.shelf } })

/-- ShelfWithdraw (R130): `none` when refused. -/
def shelfWithdraw (title : Title) (s : State) : Option State :=
  if freeCopies s title = 0 then none
  else
    some (dropEmptyShelf (changeShelf title (fun e => { e with owned := e.owned - 1, onShelf := e.onShelf - 1 }) s))

/-- Copy home (R132): `none` when SHU refuses it. -/
def copyHome (title : Title) (perCopy : Nat) (s : State) : Option State :=
  match shelfOf s title with
  | some e =>
    if e.onShelf < e.owned then
      some (owePass title (changeShelf title (fun e => { e with onShelf := e.onShelf + 1 }) s))
    else if e.owned = 255 then none
    else
      some (owePass title (changeShelf title
        (fun e => { e with owned := e.owned + 1, onShelf := e.onShelf + 1 }) s))
  | none =>
    match Table.firstFree 1024 s.shu.shelf with
    | none => none
    | some k =>
      let e : ShelfEntry :=
        { title := title, perCopy := perCopy, owned := 1, onShelf := 1, reserved := 0, mark := false }
      some (owePass title { s with shu := { s.shu with shelf := Table.put k e s.shu.shelf } })

/-- Stray copy of a title that has an entry (R132): `none` when SHU refuses it. -/
def strayCopy (title : Title) (s : State) : Option State :=
  match shelfOf s title with
  | none => none
  | some e =>
    if e.owned = 255 then none
    else
      some (owePass title (changeShelf title
        (fun e => { e with owned := e.owned + 1, onShelf := e.onShelf + 1 }) s))

/-- Copy written off (R132). -/
def copyWrittenOff (title : Title) (s : State) : State :=
  match shelfOf s title with
  | none => s
  | some e =>
    if e.onShelf < e.owned then
      dropEmptyShelf (changeShelf title (fun e => { e with owned := e.owned - 1 }) s)
    else s

/-! ## Lapse and return (R140 to R143) -/

/-- The lapse test of R142 on a Waiting hold. -/
def lapses (s : State) (h : Hold) : Bool :=
  match h.placed with
  | none => false
  | some d => s.lu.dayKnown && s.cfl.settings.holdLife < s.lu.day - d

/-- A hold lapses (R142). -/
def lapseHold (h : Hold) (s : State) : State :=
  let s := removeHold h.order h.item s
  let s := if h.setAside then releaseCopy h.title s else s
  let s := raise (.holdLapsed h.order h.item) s
  cancelHeldItem h.order h.item (offerFrame .shu (closedFrame h.order h.item .lapsed []) s)

/-- The lapse test on every Waiting hold (R142, R153), in hold order; the serve passes for the copies that it releases
follow the whole scan (DESIGN CHOICE, log 73). -/
def lapseScan (s : State) : State :=
  (s.shu.holds.filter (fun h => h.offered.isNone)).foldl (fun s h => if lapses s h then lapseHold h s else s) s

/-- An Offered hold returns to Waiting: the lapse test at once, else a serve pass (R140). -/
def returnHold (order : OrderSerial) (item : Nat) (s : State) : State :=
  let s := changeHold order item (fun h => { h with offered := none }) s
  match holdOf s order item with
  | none => s
  | some h => if lapses s h then lapseHold h s else servePass s h.title

/-- The HANDOVERs for a hold that SHU still holds are discarded (R140). -/
def discardHandover (order : OrderSerial) (item : Nat) (s : State) : State :=
  let held := s.shu.held.filter
    (fun f => !(f.kind == .handover && f.subject == order && f.detail == BitVec.ofNat 32 item))
  { s with shu := { s.shu with held := held } }

/-- Another station's item TAKE or item CLOSED removes the hold (R141). A HANDOVER for it that SHU still holds stays
(DESIGN CHOICE, log 74). -/
def holdTakenElsewhere (order : OrderSerial) (item : Nat) (s : State) : State :=
  match holdOf s order item with
  | none => s
  | some h =>
    let s := removeHold order item s
    cancelHeldItem order item (if h.setAside then releaseCopy h.title s else s)

/-- WQ cancels or abandons an order: its hold records are removed (R143). A HANDOVER for one of them that SHU still holds
stays (DESIGN CHOICE, log 74). -/
def removeOrderHolds (order : OrderSerial) (s : State) : State :=
  (s.shu.holds.filter (fun h => h.order == order)).foldl
    (fun s h =>
      let s := removeHold h.order h.item s
      if h.setAside then releaseCopy h.title s else s) s

/-! ## Handover (R138, R139) -/

/-- One hold is offered to the announcing station (R138). -/
def offerHold (to' : Station) (s : State) (h : Hold) : State :=
  let deadline := s.clock + ms s.cfl.settings.takeWait
  offerFrame .shu (handoverFrame to' h)
    (changeHold h.order h.item (fun h => { h with offered := some (to', deadline) }) s)

/-- AVAILABLE heard: the Waiting holds of the title without a set-aside copy, in hold order, up to the announced
count, are offered (R138). -/
def hearAvailable (f : Received) (s : State) : State :=
  ((waitingHolds s (BitVec.ofNat 24 f.subject.toNat) false).take f.detail.toNat).foldl (offerHold f.source) s

/-- The hold a well-formed HANDOVER carries (R139 test 1, R200), as an item take needs it. -/
def readHandover (f : Received) : Option Hold :=
  if f.payload.length != 14 || 7 < f.detail.toNat || 999 < numAt f.payload 4 2 then none
  else
    match urgencyOf (numAt f.payload 6 1), itemAt f.payload 7 with
    | some u, some i =>
      if i.kind = .braille && 1 ≤ i.amount && i.amount ≤ 12 then
        some { order := f.subject, item := f.detail.toNat, title := i.title, version := i.version,
               volumes := i.amount, patron := BitVec.ofNat 32 (numAt f.payload 0 4),
               zone := numAt f.payload 4 2, urgency := u, placed := none, seq := 0, offered := none,
               setAside := false }
      else none
    | _, _ => none

/-- The tests 2 to 6 of R139: whether a well-formed HANDOVER is refused. -/
def refusesHandover (s : State) (h : Hold) : Bool :=
  (auctionOf s h.order).isSome
    || ((recordOf s h.order).bind (fun r => r.item? h.item)).isSome
    || (holdOf s h.order h.item).isSome
    || s.pp.pause || muted s
    || freeCopies s h.title == 0
    || !hasRoom s h.order h.item

/-- HANDOVER heard (R139). -/
def hearHandover (f : Received) (s : State) : State :=
  match readHandover f with
  | none => s
  | some h =>
    if refusesHandover s h then offerFrame .shu (refuseFrame f.source h.order h.item) s
    else
      offerFrame .shu (takeFrame h.order h.item 0 (keyOf (own s) h.order))
        (itemTake h (reserveCopy h.title s))

/-- REFUSE heard: it returns the hold it names if that hold is Offered to its Source (R140). A HANDOVER for it that SHU
still holds, the REFUSE answering an earlier one, stays held and is offered later (DESIGN CHOICE, log 74). -/
def hearRefuse (f : Received) (s : State) : State :=
  match holdOf s f.subject f.detail.toNat with
  | none => s
  | some h =>
    match h.offered with
    | none => s
    | some (target, _) => if target = f.source then returnHold f.subject f.detail.toNat s else s

end Sys2Proof.Machine
end

