-- ==== Sys2Proof/Machine/Rack.lean ====
section
/-! DEFINITION. The rack's sockets and holding slots as other blocks reach them: beginning an erase (R93, R110),
holding a cartridge, stopping an operation (R107) and giving up a cartridge (R61, R67). -/

namespace Sys2Proof.Machine

/-- The socket table entry of a socket; an unlisted socket is Empty (R91). -/
def socketOf (s : State) (k : SocketNo) : Option SocketEntry := s.de.sockets.at? k.val

/-- Changes an occupied socket. -/
def changeSocket (k : SocketNo) (f : SocketEntry → SocketEntry) (s : State) : State :=
  { s with de := { s.de with sockets := Table.change k.val f s.de.sockets } }

/-- The sector in the read slot waits behind no slice of the write slot's sector (R88). -/
def ReadSlot.goesFirst (r : ReadSlot) : ReadSlot := { r with behind := false }

/-- The slice of the write slot's sector that was requested before a waiting check is over: the check waits behind none
(R88). -/
def slicesOver (s : State) : State := { s with de := { s.de with readSlot := s.de.readSlot.map ReadSlot.goesFirst } }

/-- The write slot, the read slot and a bus grant of a socket are given up (R107, R109, R112; log 21); a sector that the
write slot was being filled with is asked for no more (R88). -/
def clearSlots (k : SocketNo) (s : State) : State :=
  let gone := s.de.writeSlot.any (fun w => w.socket == k)
  { s with de := { s.de with
      writeSlot := if gone then none else s.de.writeSlot
      readSlot := if s.de.readSlot.any (fun r => r.socket == k) then none
        else if gone then s.de.readSlot.map ReadSlot.goesFirst else s.de.readSlot
      grant := if s.de.grant.any (fun g => g.socket == k) then none else s.de.grant } }

/-- A socket that holds its cartridge with no operation on it. -/
def SocketEntry.rest (e : SocketEntry) : SocketEntry :=
  { e with state := .holding, op := none, deadline := none, stale := false, silent := false }

/-- The operation of a socket ends and its cartridge is held; the attempt number stays (R91). -/
def restSocket (k : SocketNo) (s : State) : State := changeSocket k SocketEntry.rest s

/-- The operation of a socket ends, its cartridge is held, and the attempt number is 1 again, since the cartridge has
left the linked states (R91). -/
def holdSocket (k : SocketNo) (s : State) : State := changeSocket k (fun e => { e.rest with attempt := 1 }) s

/-- DE begins to erase the cartridge of a socket: the record becomes Erasing (R93, R107, R110). A cartridge
still working on a stopped operation is waited for first (R107); its record is Erasing while it is waited for (DESIGN
CHOICE, log 71). One whose limit has run out before its ready is waited
for no longer: a stop ends its silence, and the erase is requested at once (DESIGN CHOICE, log 60). -/
def startErase (k : SocketNo) (serial : CartSerial) (s : State) : State :=
  enterState serial .erasing
    (changeSocket k (fun e => { e with state := .busy, op := some (.erase false 0), attempt := 1,
                                       stale := e.deadline.isSome, silent := false }) s)

/-- The cartridge's record becomes Dirty and loses its link, and the planned cartridge loses its (R107, R57). -/
def makeDirty (serial : CartSerial) (s : State) : State :=
  unlinkPlan serial (enterState serial .dirty (changeCart serial (fun r => { r with link := none }) s))

/-- DE stops the write or verify of a cartridge: slots emptied, the record Dirty, then the erase begins (R107). -/
def stopCart (serial : CartSerial) (s : State) : State :=
  match (cartOf s serial).bind (·.socket) with
  | none => makeDirty serial s
  | some k => startErase k serial (makeDirty serial (clearSlots k s))

/-- A cancelled or abandoned planned cartridge's cartridge is given up: it becomes Dirty, at once or when DE has
stopped its operation, and one in a socket is erased (R67, R107). -/
def giveUpCart (serial : CartSerial) (s : State) : State :=
  match cartOf s serial with
  | none => s
  | some r =>
    match r.state with
    | .assigned | .writing | .verifying | .written => stopCart serial s
    | .packed => makeDirty serial s
    | _ => s

/-- An Assigned cartridge of which an image is no longer Present waits in Assigned: a write that was about to begin is
given up and its socket holds the cartridge (R101). -/
def waitCart (serial : CartSerial) (s : State) : State :=
  match (cartOf s serial).bind (·.socket) with
  | none => s
  | some k => restSocket k (clearSlots k s)

/-- A cartridge of a failed item that was only Assigned returns to Ready, its link cleared, and the walk runs
(R61, R57, R99); a write of it that was about to begin is given up. -/
def returnCart (serial : CartSerial) (s : State) : State :=
  let s := oweWalk <| unlinkPlan serial (enterState serial .ready (changeCart serial (fun r => { r with link := none }) s))
  match (cartOf s serial).bind (·.socket) with
  | none => s
  | some k => holdSocket k (clearSlots k s)

end Sys2Proof.Machine
end

