-- ==== Sys2Proof/Machine/Work.lean ====
section
/-! DEFINITION. The work queue (chapter 3): whole takes (R35, R54), item failure (R60, R61), replanning (R58,
R59), mailing and completion (R65, R66), cancellation and abandonment (R67, R68). -/

namespace Sys2Proof.Machine

/-! ## Completion (R66) -/

/-- Every bundle of the record is Mailed (R66). -/
def WorkRecord.complete (r : WorkRecord) : Bool := r.bundles.all (fun b => b.state == .mailed)

/-- The outcome of a whole-order CLOSED (R66). -/
def WorkRecord.outcome (r : WorkRecord) : Outcome :=
  if 0 < r.holdCount then .held
  else if r.items.any (fun i => i.state == .mailed) then .mailed
  else .failed

/-- The whole-order CLOSED that a completing record offers, if any (R66). -/
def WorkRecord.closing (r : WorkRecord) : Option Outcome :=
  match r.endMark with
  | .cancelled => some .cancelled
  | .abandoned => none
  | .none => if r.takenWhole then some r.outcome else none

/-- The record was complete at its creation: every item of it is Held (R54). An item becomes Held then and at no other
moment, so a record that was not complete then has an item in another state for as long as it stands. -/
def WorkRecord.allHeld (r : WorkRecord) : Bool := r.items.all (fun i => i.state == .held)

/-- WQ offers the whole-order CLOSED of a record; that of a record complete at its creation waits while AU holds the TAKE
of the order (R66, R54). -/
def offerClosing (r : WorkRecord) (o : Outcome) (s : State) : State :=
  let f := closedFrame r.order 255 o (r.mailedTags.map (·.1))
  if o == .held && r.allHeld && holdsTake s r.order then { s with wq := { s.wq with early := s.wq.early ++ [f] } }
  else offerFrame .wq f s

/-- A complete record leaves the queue, its remaining planned cartridges are freed, its CLOSED is offered, and
SHU serves holds against the free copies of every title (R66): the passes come before the first step for every title that
R136 has for a record that leaves (DESIGN CHOICE, log 72). -/
def completeRecord (s : State) (r : WorkRecord) : State :=
  let s := ((recordCarts s r).map (·.1)).foldl freePlan s
  let s := { s with wq := { s.wq with records := s.wq.records.filter (fun x => x.order != r.order) } }
  let s :=
    match r.closing with
    | some o => offerClosing r o s
    | none => s
  serveAllSetAside (serveAll s)

/-- WQ completes the record of an order if it is complete. -/
def completeIfDone (s : State) (order : OrderSerial) : State :=
  match recordOf s order with
  | none => s
  | some r => if r.complete then completeRecord s r else s

/-- WQ sets the bundle states anew (R52) and completes the records that are complete, in queue order (R66). -/
def settleWork (s : State) : State :=
  let s := renewBundles s
  (s.wq.records.map (·.order)).foldl completeIfDone s

/-! ## Mailing (R53, R65) -/

/-- The items that a bundle carries: those with a placement in it or riding it. -/
def bundleItems (s : State) (order : OrderSerial) (b : Bundle) : List Nat :=
  ((bundleCarts s order b.number).flatMap (fun e => e.2.placements.map (·.item))) ++ b.riders.map (·.item)

/-- The items that become Mailed with a bundle: Planned, carried by it, and by no other bundle of the record
that is not yet Mailed (R65). -/
def itemsMailedBy (s : State) (r : WorkRecord) (b : Bundle) : List WorkItem :=
  let others := (r.bundles.filter (fun c => c.number != b.number && c.state != .mailed)).flatMap
    (bundleItems s r.order)
  r.items.filter fun i =>
    i.state == .planned && (bundleItems s r.order b).contains i.index && !others.contains i.index

/-- The item's own CLOSED, when its hold-served flag is set (R65). -/
def closeItem (r : WorkRecord) (s : State) (i : WorkItem) : State :=
  if i.holdServed then
    offerFrame .wq
      (closedFrame r.order i.index .mailed ((r.mailedTags.filter (fun t => t.2.contains i.index)).map (·.1))) s
  else s

/-- The listed items become Mailed. -/
def WorkRecord.mailItems (is : List Nat) (r : WorkRecord) : WorkRecord :=
  { r with items := r.items.map (fun x => if is.contains x.index then { x with state := .mailed } else x) }

/-- A bundle with contents becomes Mailed: its planned cartridges are freed, its items marked, and the record
is tested for completion (R53, R65, R66). -/
def mailBundle (order : OrderSerial) (number : Nat) (s : State) : State :=
  match recordOf s order with
  | none => s
  | some r =>
    match r.bundle? number with
    | none => s
    | some b =>
      let done := itemsMailedBy s r b
      let slots := (bundleCarts s order number).map (·.1)
      let s := changeRecord order (WorkRecord.changeBundle number
        (fun b => { b with state := .mailed, containers := [],
                           riders := b.riders.map (fun x => { x with copySet := none }) })) s
      let s := slots.foldl freePlan s
      let s := changeRecord order (WorkRecord.mailItems (done.map (·.index))) s
      completeIfDone (done.foldl (closeItem r) s) order

/-- MLC reports a container's entry: the gate count rises and the tag is kept while fewer than 16 are (R53). -/
def noteEntered (order : OrderSerial) (tag : LoanTag) (items : List Nat) (s : State) : State :=
  changeRecord order
    (fun r => { r with gateCount := bump 255 r.gateCount,
                       mailedTags := if r.mailedTags.length < 16 then r.mailedTags ++ [(tag, items)]
                                     else r.mailedTags }) s

/-! ## Item failure (R60, R61) -/

/-- Step 2 of R61 for one planned cartridge that holds a placement of the item. -/
def failOnCart (item : Nat) (s : State) (slot : Nat) : State :=
  match s.wq.plan.at? slot with
  | none => s
  | some pc =>
    let without := changePlan slot (fun pc =>
      ({ pc with placements := pc.placements.filter (fun p => p.item != item) } : PlannedCart))
    match conditionOf pc with
    | .unassigned => without s
    | .written => s
    | .linked =>
      match pc.link with
      | none => s
      | some serial =>
        if (cartOf s serial).any (fun r => r.state == .assigned) then without (returnCart serial s)
        else without (stopCart serial s)

/-- Step 3 of R61 for one planned cartridge: closed up at nominal figures, or freed when nothing is left. -/
def closeUp (s : State) (slot : Nat) : State :=
  match s.wq.plan.at? slot with
  | none => s
  | some pc =>
    if conditionOf pc != .unassigned then s
    else if pc.placements.isEmpty then freePlan s slot
    else changePlan slot (PlannedCart.refigure (nominalG s)) s

/-- An item of a record is Planned. -/
def isPlanned (s : State) (order : OrderSerial) (item : Nat) : Bool :=
  ((recordOf s order).bind (fun r => r.item? item)).any (fun i => i.state == .planned)

/-- A Planned item becomes Failed (R61). The parts are numbered anew for every item of the record (DEDUCED from R49,
log 47). Several cartridges that it returns or stops go by the slots of their planned cartridges (DESIGN CHOICE, log 75). -/
def failItem (order : OrderSerial) (item : Nat) (s : State) : State :=
  if !isPlanned s order item then s
  else
    let s := changeRecord order (WorkRecord.changeItem item (fun i => { i with state := .failed })) s
    let s := raise (.itemFailed order item) s
    let s := offerFrame .wq (closedFrame order item .failed []) s
    let slots := (s.wq.plan.filter
      (fun e => e.2.order == order && e.2.placements.any (fun p => p.item == item))).map (·.1)
    let s := slots.foldl (failOnCart item) s
    let s := slots.foldl closeUp s
    settleWork (renumberParts s order)

/-- The Planned audio items of an image, in queue order, as (order, item). -/
def plannedItems (s : State) (name : ImageName) : List (OrderSerial × WorkItem) :=
  s.wq.records.flatMap fun r =>
    (r.items.filter (fun i => i.state == .planned && i.kind == .audio && i.image == name)).map (fun i => (r.order, i))

/-- An image cannot be had: every Planned item of it becomes Failed, in queue order (R60), and several of one record in
item order (DESIGN CHOICE, log 77). -/
def failImage (name : ImageName) (s : State) : State :=
  (plannedItems s name).foldl (fun s x => failItem x.1 x.2.index s) s

/-! ## Replanning (R58, R59) -/

/-- Joins ranges (start, length) that meet; the ranges stand in ascending order. -/
def joinRanges : List (Nat × Nat) → List (Nat × Nat)
  | [] => []
  | (a, l) :: rest =>
    match joinRanges rest with
    | (b, m) :: more => if a + l = b then (a, l + m) :: more else (a, l) :: (b, m) :: more
    | [] => [(a, l)]

/-- The range (start, length) `r` less the range `t`, in ascending order. -/
def cutRange (r t : Nat × Nat) : List (Nat × Nat) :=
  let left := (r.1, min (r.1 + r.2) t.1 - r.1)
  let right := (max r.1 (t.1 + t.2), r.1 + r.2 - max r.1 (t.1 + t.2))
  [left, right].filter (fun x => x.2 != 0)

/-- Ranges less every range of a list. -/
def cutRanges (rs ts : List (Nat × Nat)) : List (Nat × Nat) :=
  ts.foldl (fun rs t => rs.flatMap (fun r => if r.2 = 0 then [] else cutRange r t)) rs

/-- The affected bundles of a replan for an item: in Waiting or Producing with a placement of it (R59 step 1). -/
def affectedBundles (s : State) (r : WorkRecord) (item : Nat) : List Bundle :=
  r.bundles.filter fun b =>
    (b.state == .waiting || b.state == .producing)
      && (bundleCarts s r.order b.number).any (fun e => e.2.placements.any (fun p => p.item == item))

/-- The image ranges of an item's placements, ascending. -/
def itemRanges (item : Nat) (carts : Table PlannedCart) : List (Nat × Nat) :=
  sortBy (·.1) ((carts.flatMap (fun e => e.2.placements.filter (fun p => p.item == item))).map
    (fun p => (p.imageStart, p.length)))

/-- The runs to place (R59 step 2): for the item itself its new range less what linked and written planned
cartridges hold, for another what the freed planned cartridges hold. -/
def replanRuns (r : WorkRecord) (item size : Nat) (freed fixed : Table PlannedCart) : List Run :=
  r.items.flatMap fun i =>
    let ranges :=
      if i.index = item then cutRanges [(0, size)] (itemRanges item fixed)
      else joinRanges (itemRanges i.index freed)
    ranges.map (fun x => { item := i.index, start := x.1, len := x.2 })

/-- The free positions of a bundle, given the planned cartridges that stay in it. -/
def freePositions (b : Bundle) (stay : Table PlannedCart) : List (Nat × Nat) :=
  ([1, 2, 3, 4].filter (fun p => !(stay.any (fun e => e.2.position == p)))).map (fun p => (b.number, p))

/-- The positions of the `n` new bundles after those of the record. -/
def newPositions (have' n : Nat) : List (Nat × Nat) :=
  (List.range n).flatMap (fun i => [1, 2, 3, 4].map (fun p => (have' + i + 1, p)))

/-- Replans the record of an order for an item with its new size (R59); the item becomes Failed when the new
layout does not fit. -/
def replan (order : OrderSerial) (item size : Nat) (s : State) : State :=
  match recordOf s order with
  | none => s
  | some r =>
    let affected := affectedBundles s r item
    let inAffected := affected.flatMap (fun b => bundleCarts s order b.number)
    let freed := inAffected.filter (fun e => conditionOf e.2 == .unassigned)
    let fixed := (recordCarts s r).filter (fun e => conditionOf e.2 != .unassigned)
    let carts := fillPlan (nominalK s) (nominalG s) (replanRuns r item size freed fixed)
    let places := affected.flatMap fun b =>
      freePositions b ((bundleCarts s order b.number).filter (fun e => conditionOf e.2 != .unassigned))
    let extra := ceilDiv (carts.length - places.length) 4
    if carts.length ≤ freeSlots s + freed.length && r.bundles.length + extra ≤ 8 then
      let s := (freed.map (·.1)).foldl freePlan s
      let fresh := (List.range extra).map (fun i =>
        ({ number := r.bundles.length + i + 1, riders := [], state := .waiting, containers := [] } : Bundle))
      let s := changeRecord order (fun r => { r with bundles := r.bundles ++ fresh }) s
      let s := enterPlans order ((places ++ newPositions r.bundles.length extra).zip carts) s
      settleWork (renumberParts s order)
    else failItem order item s

/-- A placement of the item on a linked or written planned cartridge reaches beyond the size (R58). -/
def reachesBeyond (s : State) (order : OrderSerial) (item size : Nat) : Bool :=
  s.wq.plan.any fun e =>
    e.2.order == order && conditionOf e.2 != .unassigned
      && e.2.placements.any (fun p => p.item == item && size < p.imageStart + p.length)

/-- One item of a reported image: its size is written, and it is replanned or Failed (R58). -/
def resizeItem (size : Nat) (s : State) (x : OrderSerial × WorkItem) : State :=
  if x.2.amount = size || !isPlanned s x.1 x.2.index then s
  else
    let s := changeRecord x.1 (WorkRecord.changeItem x.2.index (fun i => { i with amount := size })) s
    if reachesBeyond s x.1 x.2.index size then failItem x.1 x.2.index s
    else replan x.1 x.2.index size s

/-- ISC reports the size that an INFO has set (R58). -/
def reportSize (name : ImageName) (size : Nat) (s : State) : State :=
  (plannedItems s name).foldl (resizeItem size) s

/-! ## Taking an order (R35, R54) -/

/-- The braille items of an offer with their indices, in item order. -/
def brailleItems (o : Offer) : List (Item × Nat) := o.items.zipIdx.filter (fun x => x.1.kind == .braille)

/-- The braille items with a free copy (R25): items of one title draw on its free copies in item order. -/
def withFreeCopy (s : State) (o : Offer) : List Nat :=
  ((brailleItems o).filter fun x =>
    ((brailleItems o).filter (fun y => y.1.title == x.1.title && y.2 < x.2)).length < freeCopies s x.1.title).map (·.2)

/-- The count of braille items without a free copy (R25). -/
def withoutFreeCopy (s : State) (o : Offer) : Nat := (brailleItems o).length - (withFreeCopy s o).length

/-- One braille item of a whole take: it draws a free copy and rides bundle 1, or becomes Held (R54). -/
def takeBraille (order : OrderSerial) (o : Offer) (free : List Nat) (s : State) (x : Item × Nat) : State :=
  if free.contains x.2 then reserveCopy x.1.title s else createHold order x.2 o x.1 s

/-- The item entries of a whole take (R47, R54). -/
def takenItems (s : State) (o : Offer) (free : List Nat) : List WorkItem :=
  o.items.zipIdx.map fun x =>
    { index := x.2, kind := x.1.kind, title := x.1.title, version := x.1.version,
      amount := match x.1.kind with | .audio => bestSize s x.1.image x.1.amount | .braille => x.1.amount,
      state := if x.1.kind = .audio || free.contains x.2 then .planned else .held, holdServed := false }

/-- The bundles of a whole take: bundle 1 always, with the riding items; more for each further 4 planned
cartridges (R54, R55). -/
def takenBundles (n : Nat) (free : List Nat) : List Bundle :=
  (List.range (max 1 (ceilDiv n 4))).map fun i =>
    { number := i + 1,
      riders := if i = 0 then free.map (fun x => { item := x, pick := none, copySet := none }) else [],
      state := .waiting, containers := [] }

/-- The places of planned cartridges 1, 2, ... of a whole take (R55). -/
def takenPlaces (n : Nat) : List (Nat × Nat) := (List.range n).map (fun i => (i / 4 + 1, i % 4 + 1))

/-- The room that R35 requires. -/
def acceptsTake (s : State) (o : Offer) : Bool :=
  s.wq.records.length < 32 && (offerPlan s o).length ≤ freeSlots s && (offerPlan s o).length ≤ 32
    && s.shu.holds.length + withoutFreeCopy s o ≤ 128

/-- WQ accepts an order taken whole and creates its record (R54). -/
def acceptTake (e : AuctionEntry) (s : State) : State :=
  let o := e.offer
  let free := withFreeCopy s o
  let carts := offerPlan s o
  let r : WorkRecord :=
    { order := e.order, patron := o.patron, zone := o.zone, urgency := o.urgency, takenWhole := true,
      precedence := some (e.cost, e.key), sources := e.heard.map (fun h => (h.station, h.flags.images)),
      items := takenItems s o free, bundles := takenBundles carts.length free, endMark := .none,
      gateCount := 0, mailedTags := [] }
  let s := (brailleItems o).foldl (takeBraille e.order o free) s
  let s := { s with wq := { s.wq with records := enqueueRecord r s.wq.records } }
  renewRecord (renumberParts (enterPlans e.order ((takenPlaces carts.length).zip carts) s) e.order) e.order

/-! ## Cancellation and abandonment (R67, R68) -/

/-- A bundle that a cancellation gives up (R67 step 3). -/
def BundleState.givenUp : BundleState → Bool
  | .waiting | .producing | .written => true
  | _ => false

/-- The title that a riding item's copy is of. -/
def riderTitle (r : WorkRecord) (x : Rider) : Option Title := (r.item? x.item).map (·.title)

/-- Gives up one bundle: reserved copies released, cartridges Dirty, planned cartridges freed, the bundle
Mailed (R67 step 3, R52). The cartridges become Dirty bundle by bundle, in position order (DESIGN CHOICE, log 75), and the
copies are released in that order of the bundles and their riders (DESIGN CHOICE, log 76). -/
def giveUpBundle (r : WorkRecord) (s : State) (b : Bundle) : State :=
  if b.state.givenUp then
    let s := (b.riders.filterMap (riderTitle r)).foldl (fun s t => releaseCopy t s) s
    let carts := bundleCarts s r.order b.number
    let s := (carts.filterMap (fun e => e.2.link)).foldl (fun s c => giveUpCart c s) s
    let s := (carts.map (·.1)).foldl freePlan s
    changeRecord r.order (WorkRecord.changeBundle b.number (fun b => { b with state := .mailed, riders := [] })) s
  else s

/-- The end mark is set, and every item in Planned or Held becomes Cancelled (R67 steps 1 and 2). -/
def WorkRecord.endWith (mark : EndMark) (r : WorkRecord) : WorkRecord :=
  let stop : WorkItem → WorkItem := fun i =>
    if i.state = .planned || i.state = .held then { i with state := .cancelled } else i
  { r with endMark := mark, items := r.items.map stop }

/-- WQ cancels or abandons a record with no end mark (R67, R68): the two differ in the mark, and through it in
the CLOSED at completion. An item's CLOSED(Failed) that FLI has refused stays with WQ and is offered again (DESIGN CHOICE,
log 69). -/
def endRecord (mark : EndMark) (order : OrderSerial) (s : State) : State :=
  match recordOf s order with
  | none => s
  | some r =>
    let s := removeOrderHolds order s
    let s := changeRecord order (WorkRecord.endWith mark) s
    settleWork (r.bundles.foldl (giveUpBundle r) s)

/-- CANCEL for a record with no end mark (R67). -/
def cancelOrder (order : OrderSerial) (s : State) : State :=
  match recordOf s order with
  | some r => if r.endMark = .none then endRecord .cancelled order s else s
  | none => s

/-- The abandonment of R42, R43 and R68: only while nothing of the order has passed the gate. The station's own TAKE of
the order, still held at AU or queued, is not withdrawn (DESIGN CHOICE, log 46). -/
def abandonOrder (order : OrderSerial) (s : State) : State :=
  match recordOf s order with
  | some r => if r.gateCount = 0 then endRecord .abandoned order s else s
  | none => s

end Sys2Proof.Machine
end

