-- ==== Sys2Proof/Machine/Store.lean ====
section
/-! DEFINITION. The image store controller (chapter 4): chunks and entries, fetch streams, serve streams, scrub,
damage and the store port. -/

namespace Sys2Proof.Machine

/-! ## Entries and chunks (R70 to R75) -/

def dirAt (s : State) (idx : Nat) : Option DirEntry := s.isc.directory.at? idx

def changeDir (idx : Nat) (f : DirEntry → DirEntry) (s : State) : State :=
  { s with isc := { s.isc with directory := Table.change idx f s.isc.directory } }

/-- The directory index of an image's entry. -/
def dirIndex (s : State) (name : ImageName) : Option Nat :=
  (s.isc.directory.find? (fun e => e.2.name == name)).map (·.1)

/-- The placements on unassigned or linked planned cartridges that name an image (R51, R73). -/
def placementPins (s : State) (name : ImageName) : Nat :=
  ((s.wq.plan.filter (fun e => conditionOf e.2 != .written)).map
    (fun e => ((cartImages s e.2).filter (fun n => n == name)).length)).sum

def serveOf (s : State) (x : StreamNo) : Option ServeStream := if x = 0 then s.isc.serve0 else s.isc.serve1

def setServe (x : StreamNo) (v : Option ServeStream) (s : State) : State :=
  if x = 0 then { s with isc := { s.isc with serve0 := v } } else { s with isc := { s.isc with serve1 := v } }

def fetchOf (s : State) (x : StreamNo) : FetchStream := if x = 0 then s.isc.fetch0 else s.isc.fetch1

def setFetch (x : StreamNo) (v : FetchStream) (s : State) : State :=
  if x = 0 then { s with isc := { s.isc with fetch0 := v } } else { s with isc := { s.isc with fetch1 := v } }

/-- The pin count of an image (R73): placements on planned cartridges not written, and serve streams. -/
def pinCount (s : State) (name : ImageName) : Nat :=
  placementPins s name
    + (([0, 1] : List StreamNo).filter (fun x => (serveOf s x).any (fun v => v.name == name))).length

/-- A scrub read of an entry that leaves Present has its result discarded (R86). -/
def discardScrub (idx : Nat) (s : State) : State :=
  let scrub := s.isc.scrubRead.map (fun r => if r.entry = idx then { r with discard := true } else r)
  { s with isc := { s.isc with scrubRead := scrub } }

/-- An entry becomes Free and every chunk of its chain becomes free (R70). -/
def freeEntry (idx : Nat) (s : State) : State :=
  let s := discardScrub idx s
  { s with isc := { s.isc with directory := Table.drop idx s.isc.directory,
                               chains := s.isc.chains.filter (fun c => c.2.owner != idx) } }

/-- The `n` lowest-numbered chunks from `k` on that the table does not list (R70). -/
def takeFree : Table ChunkLink → Nat → Nat → List Nat
  | [], n, k => (List.range n).map (k + ·)
  | (j, _) :: rest, n, k =>
    if n ≤ j - k then (List.range n).map (k + ·)
    else (List.range (j - k)).map (k + ·) ++ takeFree rest (n - (j - k)) (j + 1)

/-- Links chunks in the given order as the chain of an entry (R70). -/
def linkChunks (idx : Nat) : List Nat → Table ChunkLink → Table ChunkLink
  | [], t => t
  | c :: cs, t => linkChunks idx cs (Table.put c { owner := idx, next := cs.head? } t)

/-- The free-chunk count (R70). -/
def freeChunks (s : State) : Nat := s.cfl.settings.storeChunks - s.isc.chains.length

/-- The Present entries with a pin count of 0, oldest use stamp first, then lower index (R74, R75). -/
def evictees (s : State) : List Nat :=
  (sortBy (fun e => e.2.useStamp)
    (s.isc.directory.filter (fun e => e.2.state == .present && pinCount s e.2.name == 0))).map (·.1)

/-- The chunks that an entry owns. -/
def chunksOwned (s : State) (idx : Nat) : Nat := (s.isc.chains.filter (fun c => c.2.owner == idx)).length

/-- Evicts entries in the given order until `n` chunks are free (R75). -/
def evictUntil (n : Nat) : List Nat → State → State
  | [], s => s
  | i :: is, s => if n ≤ freeChunks s then s else evictUntil n is (freeEntry i s)

/-- Allocates `n` chunks to an entry, evicting where needed; `none` when too few can be had (R70, R75). -/
def allocate (idx n : Nat) (s : State) : Option State :=
  if freeChunks s + ((evictees s).map (chunksOwned s)).sum < n then none
  else
    let s := evictUntil n (evictees s) s
    let cs := takeFree s.isc.chains n 0
    some (changeDir idx (fun e => { e with head := cs.head? })
      { s with isc := { s.isc with chains := linkChunks idx cs s.isc.chains } })

/-- A free directory index, made by evicting the oldest unpinned Present entry where none is Free (R75). Of several Free
entries the one of the lowest index (DESIGN CHOICE, log 32). -/
def freeIndex (s : State) : Option (Nat × State) :=
  match Table.firstFree 512 s.isc.directory with
  | some i => some (i, s)
  | none => (evictees s).head?.map (fun i => (i, freeEntry i s))

/-- The chain's chunk number `n`, counting the head chunk as 0 (R70). -/
def chunkAt (chains : Table ChunkLink) : Nat → Option Nat → Option Nat
  | 0, c => c
  | n + 1, c => chunkAt chains n ((c.bind chains.at?).bind (·.next))

/-- The physical sector of sector `k` of an entry (R70). -/
def physical (s : State) (e : DirEntry) (k : Nat) : Option Nat :=
  (chunkAt s.isc.chains (k / 64) e.head).map (fun c => 64 * c + k % 64)

/-- The image is used: the counter rises by 1 and the entry takes it (R74). -/
def useImage (idx : Nat) (s : State) : State :=
  let n := bump 4294967295 s.isc.useCounter
  changeDir idx (fun e => { e with useStamp := n }) { s with isc := { s.isc with useCounter := n } }

/-! ## Store contents -/

/-- The memory has lost what a fade says (log 5). -/
def applyFade (f : StoreFade) (s : State) : State :=
  let store := f.bytes.foldl (fun m c => Memory.write c.1 c.2 m) s.isc.store
  let area := f.checks.foldl (fun t c => Table.put c.1 c.2 t) s.isc.crcArea
  { s with isc := { s.isc with store := store, crcArea := area } }

/-- The 1024 bytes of a slice of a physical sector. -/
def sliceData (s : State) (phys slice : Nat) : List Byte :=
  Memory.readAll s.isc.store (65536 * phys + 1024 * slice) 1024

/-- The 65,536 bytes of a physical sector. -/
def sectorData (s : State) (phys : Nat) : List Byte := Memory.readAll s.isc.store (65536 * phys) 65536

/-- The check value stored for a physical sector (R71); one never written reads as 0 (log 4). -/
def checkOf (s : State) (phys : Nat) : Check32 := (s.isc.crcArea.at? phys).getD 0

/-- A sector read for DE or scrub passes (R71). -/
def sectorPasses (s : State) (phys : Nat) : Bool := crc32 (sectorData s phys) == checkOf s phys

/-! ## Fetch streams (R76 to R83) -/

/-- The entry that a stream fills. -/
def streamEntry (s : State) (x : StreamNo) : Option (Nat × DirEntry) :=
  match (fetchOf s x).entry with
  | none => none
  | some i => (dirAt s i).map (fun e => (i, e))

/-- The station that a stream fetches from (R72). -/
def streamSource (s : State) (x : StreamNo) : Option Station := (streamEntry s x).bind (fun e => e.2.source)

/-- Held FETCHes for an image are discarded (R83). -/
def discardFetch (name : Option ImageName) (s : State) : State :=
  match name with
  | none => s
  | some n =>
    let held := s.isc.held.filter (fun f => !(f.kind == .fetch && f.subject == BitVec.ofNat 32 (imageCode n)))
    { s with isc := { s.isc with held := held } }

/-- A stream stops without its image: the entry is freed with its chunks, its held FETCH is discarded and it
becomes Idle (R83). -/
def stopFetch (x : StreamNo) (s : State) : State :=
  let f := fetchOf s x
  let s := discardFetch f.image s
  let s := match f.entry with | some i => freeEntry i s | none => s
  setFetch x .idle s

/-- The image of a stream is unobtainable (R83): it is reported to WQ, which fails the items (R60). A FETCH for it that
ISC still holds is discarded with the stream (DESIGN CHOICE, log 78). -/
def unobtainable (x : StreamNo) (s : State) : State :=
  match (fetchOf s x).image with
  | none => s
  | some name => failImage name (stopFetch x s)

/-- The best-known size of the first Planned item naming an image, in queue order (R78). -/
def wantedSize (s : State) (name : ImageName) : Nat :=
  match plannedItems s name with
  | [] => 64
  | i :: _ => i.2.amount

/-- The stream asks its current source for the next run (R78). -/
def ask (x : StreamNo) (s : State) : State :=
  match streamEntry s x, (fetchOf s x).image with
  | some (_, e), some name =>
    let size := if e.size = 0 then wantedSize s name else e.size
    let count := min 64 (size - e.complete)
    let s := setFetch x { fetchOf s x with state := .asking, askStart := e.complete, askCount := count,
                                           silence := none, retryAt := none } s
    offerFrame .isc (fetchFrame (e.source.getD 0) name e.complete count) s
  | _, _ => s

/-- The member of a candidate list that follows a station. -/
def candidateAfter (st : Station) : List Station → Option Station
  | [] => none
  | c :: cs => if c = st then cs.head? else candidateAfter st cs

/-- The stream moves to its next source, or its image is unobtainable when there is none (R77, R83). -/
def nextSource (x : StreamNo) (s : State) : State :=
  match streamEntry s x with
  | none => s
  | some (i, e) =>
    match candidateAfter (e.source.getD 0) (fetchOf s x).candidates with
    | none => unobtainable x s
    | some c => ask x (changeDir i (fun e => { e with source := some c, fails := 0 }) s)

/-- The stream fails on its first incomplete sector (R82). -/
def failStream (x : StreamNo) (s : State) : State :=
  match streamEntry s x with
  | none => s
  | some (i, e) =>
    let s := changeDir i (fun e => { e with fails := e.fails + 1 }) s
    if e.fails + 1 ≥ 3 then nextSource x s else ask x s

/-- The candidate list made at a take-up (R77). -/
def candidateList (s : State) (name : ImageName) : List Station :=
  match (plansInOrder s).find? (fun e => (cartImages s e.2).contains name) with
  | none => [0]
  | some (_, pc) =>
    match recordOf s pc.order with
    | none => [0]
    | some r =>
      let named := r.items.filter (fun i => i.kind == .audio && i.image == name)
      (r.sources.filter (fun x => x.1 != 0 && named.any (fun i => x.2.getLsbD i.index))).map (·.1) ++ [0]

/-- The images wanted (R76), in queue order. -/
def wantedImages (s : State) : List ImageName :=
  ((plansInOrder s).filter (fun e => conditionOf e.2 != .written)).flatMap fun e =>
    (cartImages s e.2).filter fun n =>
      match entryOf s n with
      | none => true
      | some d => d.state == .damaged

/-- The other stream. -/
def otherStream (x : StreamNo) : StreamNo := if x = 0 then 1 else 0

/-- A stream takes up an image: it takes or reuses an entry, makes its candidate list and asks; with no entry
to be had it waits (R76), without a candidate list: that is made when the entry is had, and a BID heard before then adds
nothing to it (DESIGN CHOICE, log 59). The use stamp of a new entry, which nothing has used, is 0 (DESIGN CHOICE,
log 50). -/
def takeUp (x : StreamNo) (name : ImageName) (s : State) : State :=
  let cands := candidateList s name
  let start := fun (i : Nat) (s : State) =>
    ask x (setFetch x { FetchStream.idle with state := .asking, image := some name, entry := some i,
                                               candidates := cands } s)
  match dirIndex s name with
  | some i =>
    start i (changeDir i (fun e => { e with state := .arriving, source := cands.head?, fails := 0 }) s)
  | none =>
    match freeIndex s with
    | some (i, s) =>
      let e : DirEntry :=
        { name := name, size := 0, head := none, state := .arriving, useStamp := 0, complete := 0,
          source := cands.head?, fails := 0 }
      start i { s with isc := { s.isc with directory := Table.put i e s.isc.directory } }
    | none => setFetch x { FetchStream.idle with state := .waiting, image := some name } s

/-- A waiting stream tries again (R75): for an entry, or for the chunks of its image. -/
def retryWaiting (s : State) (x : StreamNo) : State :=
  let f := fetchOf s x
  if f.state != .waiting then s
  else
    match f.image, streamEntry s x with
    | some name, none => takeUp x name s
    | _, some (i, e) =>
      match allocate i (ceilDiv e.size 64) s with
      | some s => ask x s
      | none => s
    | none, none => s

/-- A stream whose image is no longer wanted stops (R83). -/
def stopUnwanted (s : State) (x : StreamNo) : State :=
  match (fetchOf s x).image with
  | none => s
  | some name => if placementPins s name = 0 then stopFetch x s else s

/-- A Damaged entry whose pin count has fallen to 0 is freed (R87). -/
def freeDamaged (s : State) : State :=
  ((s.isc.directory.filter (fun e => e.2.state == .damaged && pinCount s e.2.name == 0)).map (·.1)).foldl
    (fun s i => freeEntry i s) s

/-- An Idle stream takes up the first wanted image that the other stream does not hold (R76). -/
def walkIdle (s : State) (x : StreamNo) : State :=
  if (fetchOf s x).state != .idle || muted s then s
  else
    match (wantedImages s).find? (fun n => (fetchOf s (otherStream x)).image != some n) with
    | some n => takeUp x n s
    | none => s

/-- What ISC does whenever placements, entries or streams have changed (R73, R75, R76, R83, R87; log 26). -/
def settleStore (s : State) : State :=
  let s := ([0, 1] : List StreamNo).foldl stopUnwanted s
  let s := freeDamaged s
  let s := ([0, 1] : List StreamNo).foldl retryWaiting s
  ([0, 1] : List StreamNo).foldl walkIdle s

/-- The silence timer restarts, if it runs (R78). -/
def restartSilence (x : StreamNo) (s : State) : State :=
  let f := fetchOf s x
  setFetch x { f with silence := f.silence.map (fun _ => s.clock + ms 500) } s

/-- A run opens (R79): its end is not above the size, and slice 0 of its start is expected. The silence timer runs from
this INFO, also where it is a late one and the stream's new FETCH is still queued or held, whose completion then starts
nothing (DESIGN CHOICE, log 79). -/
def openRun (x : StreamNo) (size : Nat) (s : State) : State :=
  let f := fetchOf s x
  setFetch x { f with state := .receiving, runStart := f.askStart,
                      runEnd := min (f.askStart + f.askCount) size, sector := f.askStart, slice := 0,
                      crc := crc32Init, silence := some (s.clock + ms 500), retryAt := none } s

/-- INFO Present sets the size of an entry that holds none (R79, R58): WQ is told, and chunks are allocated. -/
def setSize (x : StreamNo) (i : Nat) (name : ImageName) (size : Nat) (s : State) : State :=
  let s := reportSize name size (changeDir i (fun e => { e with size := size }) s)
  if placementPins s name = 0 then stopFetch x s
  else if s.cfl.settings.storeChunks < ceilDiv size 64 then unobtainable x s
  else
    match allocate i (ceilDiv size 64) s with
    | some s => openRun x size s
    | none => setFetch x { fetchOf s x with state := .waiting, silence := none } s

/-- Absent or OtherVersion: the next source (R79); station 0 has none (R83). -/
def sourceLacks (x : StreamNo) (s : State) : State := nextSource x s

/-- Busy: the next source, or after 500 ms station 0 again (R79). -/
def sourceBusy (x : StreamNo) (source : Station) (s : State) : State :=
  if source = 0 then
    setFetch x { fetchOf s x with state := .retrying, silence := none, retryAt := some (s.clock + ms 500) } s
  else nextSource x s

/-- A stream acts on the status of an INFO that it takes (R79). -/
def actOnInfo (x : StreamNo) (i : Nat) (e : DirEntry) (f : Received) (st : InfoStatus) (s : State) : State :=
  let size := detailLow f
  match st with
  | .present =>
    if size = 0 || 16383 < size then sourceLacks x s
    else if e.size = 0 then setSize x i e.name size s
    else if e.size != size then sourceLacks x s
    else if (fetchOf s x).state = .receiving then s
    else openRun x size s
  | .absent | .otherVersion => sourceLacks x s
  | .busy => sourceBusy x f.source s

/-- A stream is to take frames of an image from a source (R79, R80). -/
def takesFrom (s : State) (x : StreamNo) (f : Received) : Bool :=
  (fetchOf s x).image == some (imageNameOf f.subject.toNat) && streamSource s x == some f.source

/-- INFO heard, at one stream (R79). -/
def infoAt (f : Received) (s : State) (x : StreamNo) : State :=
  if takesFrom s x f && ((fetchOf s x).state == .asking || (fetchOf s x).state == .receiving) then
    let s := restartSilence x s
    match infoStatusOf (detailByte f 2), streamEntry s x with
    | some st, some (i, e) => actOnInfo x i e f st s
    | _, _ => s
  else s

/-- INFO heard (R79). -/
def hearInfo (f : Received) (s : State) : State := ([0, 1] : List StreamNo).foldl (infoAt f) s

/-! ## Slices (R80, R81, R89) -/

/-- The guard counts a discarded frame. -/
def countGuard (s : State) : State :=
  { s with isc := { s.isc with guardDiscards := bump 65535 s.isc.guardDiscards } }

/-- A frame inside the window is the expected slice, whole, with the last-of-run flag where it belongs (R80). -/
def acceptable (fs : FetchStream) (f : Received) : Bool :=
  let sector := detailLow f
  let slice := detailByte f 2
  let last := detailByte f 3 % 2 == 1
  sector == fs.sector && slice == fs.slice
    && f.payload.length == (if slice = 63 then 1028 else 1024)
    && last == (slice == 63 && sector + 1 == fs.runEnd)

/-- An acceptable slice enters the receive buffer; at slice 63 the CRCs are compared (R81). A slice that meets
a full buffer is dropped and the stream fails (R89). -/
def acceptSlice (x : StreamNo) (f : Received) (s : State) : State :=
  let fs := fetchOf s x
  if fs.buffer.isSome then failStream x s
  else
    let data := f.payload.take 1024
    let crc := crc32Run fs.crc data
    if fs.slice = 63 then
      let check := BitVec.ofNat 32 (numAt f.payload 1024 4)
      if ~~~crc = check then
        setFetch x { fs with sector := fs.sector + 1, slice := 0, crc := crc32Init,
                             buffer := some { sector := fs.sector, slice := 63, data := data, check := some check } } s
      else
        failStream x (setFetch x { fs with
          buffer := some { sector := fs.sector, slice := 63, data := data, check := none } } s)
    else
      setFetch x { fs with slice := fs.slice + 1, crc := crc,
                           buffer := some { sector := fs.sector, slice := fs.slice, data := data, check := none } } s

/-- IMAGE heard, at one stream: the fetch window guard (R80). -/
def imageAt (f : Received) (s : State) (x : StreamNo) : State :=
  if !takesFrom s x f then s
  else
    let s := restartSilence x s
    let fs := fetchOf s x
    if fs.state != .receiving then s
    else if fs.runStart ≤ detailLow f && detailLow f < fs.runEnd && detailByte f 2 ≤ 63 then
      if acceptable fs f then acceptSlice x f s else failStream x s
    else
      match s.cfl.settings.guardMode with
      | .lenient => countGuard s
      | .strict => nextSource x (countGuard s)

/-- IMAGE heard (R80). -/
def hearImage (f : Received) (s : State) : State := ([0, 1] : List StreamNo).foldl (imageAt f) s

/-- The image is whole: the entry becomes Present, a use stamp is taken, the stream becomes Idle (R81), and DE
walks (R99). A FETCH for it that ISC still holds, which a stream that is Asking again may have (log 23), is discarded
(DESIGN CHOICE, log 78). -/
def imageWhole (x : StreamNo) (i : Nat) (s : State) : State :=
  let s := oweWalk <| discardFetch (fetchOf s x).image s
  setFetch x .idle (useImage i (changeDir i (fun e => { e with state := .present, source := none }) s))

/-- A sector has been stored and checked (R81): the run may be over, and the image may be whole. -/
def sectorDone (x : StreamNo) (i : Nat) (sector phys : Nat) (check : Check32) (s : State) : State :=
  let s := { s with isc := { s.isc with crcArea := Table.put phys check s.isc.crcArea } }
  let s := changeDir i (fun e => { e with complete := sector + 1, fails := 0 }) s
  match dirAt s i with
  | none => s
  | some e =>
    if e.complete = e.size then imageWhole x i s
    else if (fetchOf s x).state = .receiving && e.complete = (fetchOf s x).runEnd then ask x s
    else s

/-- The slice in a stream's receive buffer has been written to the store (R81, R89). -/
def sliceWritten (x : StreamNo) (s : State) : State :=
  let fs := fetchOf s x
  match fs.buffer, streamEntry s x with
  | some b, some (i, e) =>
    let s := setFetch x { fs with buffer := none } s
    match physical s e b.sector with
    | none => s
    | some phys =>
      let s := { s with isc := { s.isc with
        store := Memory.writeAll (65536 * phys + 1024 * b.slice) b.data s.isc.store } }
      match b.check with
      | some c => sectorDone x i b.sector phys c s
      | none => s
  | _, _ => s

/-! ## Candidates from BIDs (R77) -/

/-- A station joins a candidate list just before station 0, unless it is there (R77). -/
def joinCandidates (st : Station) (cs : List Station) : List Station :=
  if cs.contains st then cs else cs.filter (fun c => c != 0) ++ [st, 0]

/-- A well-formed BID heard for an order of the auction table: stations that flag a stream's image join its
candidate list (R77). -/
def bidCandidates (source : Station) (o : Offer) (images : Byte) (s : State) (x : StreamNo) : State :=
  let fs := fetchOf s x
  match fs.image with
  | none => s
  | some name =>
    if !fs.candidates.isEmpty
        && o.items.zipIdx.any (fun i => i.1.kind == .audio && i.1.image == name && images.getLsbD i.2) then
      setFetch x { fs with candidates := joinCandidates source fs.candidates } s
    else s

/-! ## Serve streams (R84, R85) -/

/-- The user's access ends and the port is free. -/
def releasePort (s : State) : State := { s with isc := { s.isc with port := none } }

/-- A serve stream ends; the slice it had read is dropped with it (R85), and a slice access that it had been granted is
over (DESIGN CHOICE, log 19). -/
def endServe (x : StreamNo) (s : State) : State :=
  setServe x none (if s.isc.port = some (.serve x) then releasePort s else s)

/-- ISC answers with an INFO (R84). The size of a status other than Present is a free value (log 17). -/
def offerInfo (peer : Station) (name : ImageName) (size : Nat) (st : InfoStatus) (s : State) : State :=
  let size := if st = .present then size else (Config.infoSize st.code).toNat
  offerFrame .isc (infoFrame peer name size st) s

/-- A stream already sending to the same requester for the same title ends first (R84). -/
def endSameTitle (peer : Station) (title : Title) (s : State) (x : StreamNo) : State :=
  if (serveOf s x).any (fun v => v.requester == peer && v.name.title == title) then endServe x s else s

/-- The free serve stream that opens: stream 0 when both are free (R84). -/
def freeServe (s : State) : Option StreamNo :=
  if (serveOf s 0).isNone then some 0 else if (serveOf s 1).isNone then some 1 else none

/-- A serve stream opens on a run (R84). -/
def openServe (x : StreamNo) (peer : Station) (name : ImageName) (i start count size : Nat) (s : State) : State :=
  useImage i (setServe x (some
    { requester := peer, name := name, entry := i, sector := start, slice := 0,
      runEnd := min (start + count) size, infoSent := false, ready := none, onLine := false }) s)

/-- FETCH heard by its addressee with a count in range (R84). -/
def answerFetch (f : Received) (s : State) : State :=
  let name := imageNameOf f.subject.toNat
  let start := detailLow f
  let count := detailByte f 2
  let s := ([0, 1] : List StreamNo).foldl (endSameTitle f.source name.title) s
  let present := s.isc.directory.filter (fun e => e.2.state == .present && e.2.name.title == name.title)
  match present.find? (fun e => e.2.name == name) with
  | some (i, e) =>
    if e.size ≤ start then offerInfo f.source name e.size .present s
    else
      match freeServe s with
      | some x => offerInfo f.source name e.size .present (openServe x f.source name i start count e.size s)
      | none => offerInfo f.source name e.size .busy s
  | none =>
    if present.isEmpty then offerInfo f.source name 0 .absent s
    else offerInfo f.source name 0 .otherVersion s

/-- FETCH heard (R84): one sent to 255, or with a count outside 1..64, is ignored. -/
def hearFetch (f : Received) (s : State) : State :=
  if f.dest = (own s).toNat && 1 ≤ detailByte f 2 && detailByte f 2 ≤ 64 then answerFetch f s else s

/-- A serve stream has an IMAGE frame ready: its INFO has completed and its slice has been read (R85). -/
def serveReady (s : State) (x : StreamNo) : Bool :=
  (serveOf s x).any (fun v => v.infoSent && v.ready.isSome)

/-- The IMAGE frame of a serve stream (R85): slice 63 carries the check value, and the last slice of the run
the last-of-run flag. -/
def serveFrame (v : ServeStream) : Frame :=
  let data := match v.ready with
    | some (d, some c) => d ++ bytesLE 4 c.toNat
    | some (d, none) => d
    | none => []
  imageFrame v.requester v.name v.sector v.slice (v.slice == 63 && v.sector + 1 == v.runEnd) data

/-- The slice that a serve stream reads has been read (R85). -/
def serveRead (x : StreamNo) (s : State) : State :=
  match serveOf s x with
  | none => s
  | some v =>
    match (dirAt s v.entry).bind (fun e => physical s e v.sector) with
    | none => s
    | some phys =>
      let check := if v.slice = 63 then some (checkOf s phys) else none
      setServe x (some { v with ready := some (sliceData s phys v.slice, check) }) s

/-- FLI reports an IMAGE frame complete: the stream moves to the following slice, or ends after the last one of
its run (R13, R85). -/
def serveAdvance (x : StreamNo) (s : State) : State :=
  match serveOf s x with
  | none => s
  | some v =>
    if !v.onLine then s
    else if v.slice < 63 then setServe x (some { v with slice := v.slice + 1, ready := none, onLine := false }) s
    else if v.sector + 1 < v.runEnd then
      setServe x (some { v with sector := v.sector + 1, slice := 0, ready := none, onLine := false }) s
    else endServe x s

/-- An own INFO has completed on the line: the stream it opened, known by requester and image, may send (R85; DESIGN
CHOICE, log 84). -/
def infoCompleted (f : Frame) (s : State) (x : StreamNo) : State :=
  match serveOf s x with
  | none => s
  | some v =>
    if destOf v.requester = f.dest && f.subject = BitVec.ofNat 32 (imageCode v.name) then
      setServe x (some { v with infoSent := true }) s
    else s

/-- An own FETCH has completed on the line: the silence timer of its stream, known by image and source, runs (R78; DESIGN
CHOICE, log 84). -/
def fetchCompleted (f : Frame) (s : State) (x : StreamNo) : State :=
  let fs := fetchOf s x
  if fs.state == .asking && (fs.image.any (fun n => f.subject == BitVec.ofNat 32 (imageCode n)))
      && (streamSource s x).any (fun st => destOf st == f.dest) then
    setFetch x { fs with silence := some (s.clock + ms 500) } s
  else s

/-! ## Damage (R87) and scrub (R86) -/

/-- The cartridges, with a record that satisfies `p`, that are being made from an image, in the order of the plan store's
slots (DESIGN CHOICE, log 70). -/
def cartsUsing (s : State) (name : ImageName) (p : CartRecord → Bool) : List CartSerial :=
  (s.wq.plan.filter (fun e => conditionOf e.2 == .linked && (cartImages s e.2).contains name)).filterMap fun e =>
    e.2.link.bind fun c => if (cartOf s c).any p then some c else none

/-- The cartridge is being written or verified (R107). -/
def CartRecord.atWork (r : CartRecord) : Bool := r.state == .writing || r.state == .verifying

/-- The cartridge is linked and nothing has been written to it yet (R101). -/
def CartRecord.waits (r : CartRecord) : Bool := r.state == .assigned

/-- The serve stream on an entry ends with INFO Absent offered to its requester (R87). -/
def endDamagedServe (idx : Nat) (s : State) (x : StreamNo) : State :=
  match serveOf s x with
  | none => s
  | some v => if v.entry = idx then offerInfo v.requester v.name 0 .absent (endServe x s) else s

/-- A sector of a Present entry has failed its check (R87): every cartridge being written or verified from the image is
stopped (R107), and one that is only Assigned waits (R101). The check of an entry that is not Present condemns
nothing. Serve stream 0 is ended, and its INFO Absent offered, before stream 1 (DESIGN CHOICE, log 70). -/
def damage (idx : Nat) (s : State) : State :=
  match dirAt s idx with
  | none => s
  | some e =>
    if e.state != .present then s
    else
      let s := discardScrub idx (changeDir idx (fun e => { e with state := .damaged, complete := 0, source := none }) s)
      let s := raise (.imageDamaged idx) s
      let s := ([0, 1] : List StreamNo).foldl (endDamagedServe idx) s
      let s := (cartsUsing s e.name CartRecord.atWork).foldl (fun s c => stopCart c s) s
      let s := (cartsUsing s e.name CartRecord.waits).foldl (fun s c => waitCart c s) s
      if pinCount s e.name = 0 then freeEntry idx s else s

/-- The physical sectors of a Present entry below its size. -/
def presentSectors (s : State) (e : Nat × DirEntry) : List (Nat × Nat) :=
  if e.2.state = .present then (List.range e.2.size).filterMap (fun k => (physical s e.2 k).map (fun p => (p, e.1)))
  else []

/-- The sectors of all Present entries, each with its entry. -/
def storedSectors (s : State) : List (Nat × Nat) := s.isc.directory.flatMap (presentSectors s)

/-- The distance upward from the scrub cursor, wrapping at the configured capacity (R86). -/
def scrubDistance (s : State) (phys : Nat) : Nat :=
  (phys + s.cfl.settings.storeChunks * 64 - s.isc.scrubCursor) % (s.cfl.settings.storeChunks * 64)

/-- The next stored sector from the scrub cursor upward (R86). -/
def nextScrub (s : State) : Option (Nat × Nat) :=
  (storedSectors s).foldl
    (fun best p =>
      match best with
      | none => some p
      | some b => if scrubDistance s p.1 < scrubDistance s b.1 then some p else best) none

/-- The scrub interval in clock units (R86). -/
def scrubPeriod (s : State) : Nat := ms (100 * s.cfl.settings.scrubInterval)

/-- A scrub expiry: the next stored sector's read is started and the cursor moves past it (R86). -/
def scrubStart (s : State) : State :=
  if s.isc.scrubRead.isSome then s
  else
    match nextScrub s with
    | none => s
    | some (p, i) =>
      { s with isc := { s.isc with
          scrubRead := some { sector := p, entry := i, discard := false }
          scrubCursor := (p + 1) % (s.cfl.settings.storeChunks * 64) } }

/-- A scrub read has completed (R86). -/
def scrubFinish (s : State) : State :=
  match s.isc.scrubRead with
  | none => s
  | some r =>
    let s := { s with isc := { s.isc with scrubRead := none } }
    if r.discard || sectorPasses s r.sector then s else damage r.entry s

/-! ## Muting (R7, R83) -/

/-- FLI enters Muted: both serve streams end, both fetch streams stop, no frame stays held (R7, R83, R85). -/
def muteStore (s : State) : State :=
  let s := ([0, 1] : List StreamNo).foldl (fun s x => endServe x s) s
  let s := ([0, 1] : List StreamNo).foldl (fun s x => stopFetch x s) s
  { s with isc := { s.isc with held := [] } }

/-! ## The store port (R88) -/

/-- A user of the port has a request waiting (R88). -/
def portWants (s : State) : PortUser → Bool
  | .fetch x => (fetchOf s x).buffer.isSome
  | .duplicator => s.de.writeSlot.any (fun w => match w.fill with | .filling _ _ => true | .full _ => false)
  | .serve x => (serveOf s x).any (fun v => v.ready.isNone)
  | .scrub => s.isc.scrubRead.isSome

/-- The order in which the arbiter looks at the users: fetch writes, DE, serve reads, scrub; within a class of
two streams the one not granted last comes first (R88). -/
def portOrder (s : State) : List PortUser :=
  [.fetch (otherStream s.isc.lastFetch), .fetch s.isc.lastFetch, .duplicator,
   .serve (otherStream s.isc.lastServe), .serve s.isc.lastServe, .scrub]

/-- A user whose read of a sector is made of slice accesses each granted in its own right (R88). -/
def PortUser.bySlices : PortUser → Bool
  | .duplicator | .scrub => true
  | _ => false

/-- The port goes to the next user, or is free. A slice of DE's that had it is then over, and the slices of that sector
still to be requested go after a check that waits (R88). -/
def passPort (u : Option PortUser) (s : State) : State :=
  let s := if s.isc.port = some .duplicator ∧ u ≠ some .duplicator then slicesOver s else s
  { s with isc := { s.isc with port := u } }

/-- The port as the arbiter leaves it: a slice access in progress keeps it; a sector read of DE or scrub gives
way between slices to a higher class (R88; log 19). The access of a stream that has ended is over with it (DESIGN
CHOICE, log 19). -/
def grantPort (s : State) : State :=
  let keeps := s.isc.port.any (fun u => portWants s u && !u.bySlices)
  if keeps then s
  else
    match (portOrder s).find? (portWants s) with
    | none => passPort none s
    | some u =>
      passPort (some u) { s with isc := { s.isc with
          lastFetch := match u with | .fetch x => x | _ => s.isc.lastFetch
          lastServe := match u with | .serve x => x | _ => s.isc.lastServe } }

end Sys2Proof.Machine
end

