-- ==== Sys2Proof/Machine/Duplicator.lean ====
section
/-! DEFINITION. The duplicator engine (chapter 5): assignment, the holding slots, the socket bus, writing,
verifying, erasing, failures, identification and removal. -/

namespace Sys2Proof.Machine

/-! ## Looking at a socket -/

/-- The pool record of the cartridge in a socket. -/
def cartIn (s : State) (k : SocketNo) : Option CartRecord :=
  ((socketOf s k).bind (·.serial)).bind (cartOf s)

/-- The planned cartridge to which a socket's cartridge is linked. -/
def planIn (s : State) (k : SocketNo) : Option PlannedCart :=
  (((socketOf s k).bind (·.serial)).bind (slotLinkedTo s)).bind s.wq.plan.at?

/-- The sockets in order after a socket, wrapping from 7 to 0, that socket last (R96, R98). -/
def socketsAfter (k : SocketNo) : List SocketNo := (List.range 8).map (fun i => k + 1 + Fin.ofNat 8 i)

/-- The erase groups of a cartridge: K / G (R110). -/
def groupCount (h : Header) : Nat := capacityOf h.capClass / groupOf h.e

/-! ## Assignment (R99 to R102) -/

/-- Every image that a planned cartridge's placements name is Present. -/
def imagesPresent (s : State) (pc : PlannedCart) : Bool :=
  pc.placements.all fun p =>
    ((placementImage s pc p).bind (entryOf s)).any (fun e => e.state == .present)

/-- The extent of a planned cartridge with an erase group (R100). -/
def extent (g : Nat) (pc : PlannedCart) : Nat := g + (pc.placements.map (fun p => padded g p.length)).sum

/-- The planned cartridge fits a cartridge of capacity class `cls` and erase-group exponent `e` (R100). -/
def fits (pc : PlannedCart) (cls e : Nat) : Bool := extent (groupOf e) pc ≤ capacityOf cls

/-- The sockets that hold a Ready cartridge on which a planned cartridge fits, each with its record. -/
def fittingSockets (s : State) (pc : PlannedCart) : List (SocketNo × CartRecord) :=
  (List.finRange 8).filterMap fun k =>
    match socketOf s k, cartIn s k with
    | some e, some r => if e.state = .holding && r.state = .ready && fits pc r.capClass r.e then some (k, r) else none
    | _, _ => none

/-- The cartridge that R100 chooses: smallest capacity class, then lowest socket. -/
def chooseCart (s : State) (pc : PlannedCart) : Option (SocketNo × CartRecord) :=
  (sortBy (fun x => x.2.capClass) (fittingSockets s pc)).head?

/-- The chosen cartridge is linked to a planned cartridge (R101, R56). -/
def linkCart (slot : Nat) (k : SocketNo) (r : CartRecord) (s : State) : State :=
  let s := enterState r.serial .assigned (changeCart r.serial (fun r => { r with link := some slot }) s)
  let s := changePlan slot (fun pc =>
    ({ pc with link := some r.serial, loadAsked := false } : PlannedCart).refigure (groupOf r.e)) s
  changeSocket k (fun e => { e with attempt := 1 }) s

/-- The smallest capacity class whose capacity is no smaller than an extent (R102). -/
def classFor (x : Nat) : Nat := if x ≤ 4096 then 0 else if x ≤ 8192 then 1 else if x ≤ 16384 then 2 else 3

/-- No cartridge fits: LoadCartridges, once while the load-asked mark is clear (R102). -/
def askLoad (slot : Nat) (pc : PlannedCart) (s : State) : State :=
  if pc.loadAsked then s
  else
    raise (.loadCartridges (classFor (extent (nominalG s) pc)) slot)
      (changePlan slot (fun pc => { pc with loadAsked := true }) s)

/-- One planned cartridge of the walk, if it is eligible (R99, R100). -/
def offerCart (s : State) (slot : Nat) : State :=
  match s.wq.plan.at? slot with
  | none => s
  | some pc =>
    if conditionOf pc != .unassigned || !imagesPresent s pc then s
    else
      match chooseCart s pc with
      | some (k, r) => linkCart slot k r s
      | none => askLoad slot pc s

/-- The walk of the plan store for assignment, when it is owed; not before the identification after a reset is
complete (R99, R113). -/
def walk (s : State) : State :=
  if s.de.walkDue && s.cfl.phase == .running then
    ((plansInOrder s).map (·.1)).foldl offerCart { s with de := { s.de with walkDue := false } }
  else s

/-- A Holding socket whose Assigned cartridge has every image Present begins to write (R103). -/
def startWrite (s : State) (k : SocketNo) : State :=
  match socketOf s k, cartIn s k, planIn s k with
  | some e, some r, some pc =>
    if e.state = .holding && r.state = .assigned && imagesPresent s pc then
      changeSocket k (fun e => { e with state := .busy, op := some .headerWrite }) s
    else s
  | _, _, _ => s

def startWrites (s : State) : State := (List.finRange 8).foldl startWrite s

/-! ## The write holding slot (R96, R103 to R105, R110) -/

/-- The next step of a socket, while its cartridge is ready (R96, R97): none while it works on its own, nor after a limit
has run out until it signals ready (R94). -/
def nextStep (s : State) (k : SocketNo) : Option Op :=
  match socketOf s k with
  | some e => if e.state = .busy && e.deadline.isNone && !e.silent then e.op else none
  | none => none

def Op.isWrite : Op → Bool
  | .headerWrite | .sectorWrite _ _ | .directoryWrite | .eraseHeader _ => true
  | _ => false

def Op.isVerify : Op → Bool
  | .verifySector _ _ | .verifyDirectory => true
  | _ => false

def Op.isErase : Op → Bool
  | .erase _ _ => true
  | _ => false

/-- The directory bytes before the directory CRC (R105, R201). -/
def directoryBody (s : State) (pc : PlannedCart) : List Byte :=
  bytesLE 4 pc.order.toNat ++ bytesLE 1 pc.bundle ++ bytesLE 1 pc.position
    ++ bytesLE 1 (bundleCarts s pc.order pc.bundle).length
    ++ bytesLE 4 ((recordOf s pc.order).elim 0 (fun r => r.patron.toNat))
    ++ bytesLE 1 pc.placements.length
    ++ pc.placements.flatMap (fun p => placementBytes p ((placementImage s pc p).getD { title := 0, version := 0 }))

/-- The directory image with its CRC (R105, R201). -/
def directoryImage (s : State) (pc : PlannedCart) : List Byte :=
  directoryBody s pc ++ bytesLE 4 (crc32 (directoryBody s pc)).toNat

/-- The header image of a write: erased flag cleared, wear unchanged (R103). -/
def Header.forWrite (h : Header) : Header := { h with erased := false }

/-- The header image at the end of an erase: erased flag set, wear raised by 1, stopping at 65535 (R110). -/
def Header.forErase (h : Header) : Header := { h with erased := true, wear := bump 65535 h.wear }

/-- The write slot holds bytes for a socket. -/
def fillFull (k : SocketNo) (bytes : List Byte) (s : State) : State :=
  { s with de := { s.de with writeSlot := some { socket := k, fill := .full bytes } } }

/-- The directory entry and physical sector of sector `j` of placement `p` of a planned cartridge. -/
def sourceSector (s : State) (pc : PlannedCart) (p j : Nat) : Option (Nat × Nat) :=
  match pc.placements[p]? with
  | none => none
  | some pl =>
    match (placementImage s pc pl).bind (dirIndex s) with
    | none => none
    | some i => ((dirAt s i).bind (fun e => physical s e (pl.imageStart + j))).map (fun phys => (i, phys))

/-- The slot begins to fill with a placement sector from the image store; the first sector of a placement uses
the image (R74, R104), and its use stamp is taken here, when the fill begins, so that a fill given up before its end has
used the image too (DESIGN CHOICE, log 85). -/
def fillSector (k : SocketNo) (p j : Nat) (s : State) : State :=
  match (planIn s k).bind (fun pc => sourceSector s pc p j) with
  | none => s
  | some (i, phys) =>
    let s := if j = 0 then useImage i s else s
    { s with de := { s.de with writeSlot := some { socket := k, fill := .filling phys i } } }

/-- DE fills the write slot for the next step of a socket. -/
def fillFor (k : SocketNo) (s : State) : State :=
  match nextStep s k, (socketOf s k).bind (·.header) with
  | some .headerWrite, some h => fillFull k (headerBytes h.forWrite) s
  | some (.eraseHeader _), some h => fillFull k (headerBytes h.forErase) s
  | some (.sectorWrite p j), _ => fillSector k p j s
  | some .directoryWrite, _ =>
    match planIn s k with
    | none => s
    | some pc =>
      fillFull k (directoryImage s pc)
        (changeSocket k (fun e => { e with dirCheck := crc32 (directoryBody s pc) }) s)
  | _, _ => s

/-- When the write slot is empty, DE fills it for the first writing socket after the last-granted one (R96). -/
def fillSlot (s : State) : State :=
  if s.de.writeSlot.isSome then s
  else
    match (socketsAfter s.de.lastGranted).find? (fun k => (nextStep s k).any Op.isWrite) with
    | some k => fillFor k s
    | none => s

/-! ## The socket bus (R95, R98) -/

/-- The operation a socket requests the bus for (R98). -/
def requestOf (s : State) (k : SocketNo) : Option BusOp :=
  match socketOf s k with
  | none => none
  | some e =>
    if e.state = .identifying then (if s.de.readSlot.isNone then some .headerRead else none)
    else
      match nextStep s k with
      | none => none
      | some op =>
        if op.isWrite then
          (if s.de.writeSlot.any (fun w => w.socket == k && (match w.fill with | .full _ => true | .filling _ _ => false))
            then some .write else none)
        else if op.isErase then some .erase
        else if s.de.readSlot.isNone then some .sectorRead else none

/-- The read limit of a socket's cartridge; an identifying one has that of access class 3 (R92, R94). -/
def readLimitIn (s : State) (k : SocketNo) : Nat :=
  match socketOf s k with
  | some e => if e.state = .identifying then readLimitOf 3 else readLimitOf (e.header.elim 3 (·.access))
  | none => readLimitOf 3

/-- The address phases that a sector address takes (R95); a class above 3 is a free value (log 16). -/
def phasesOf (cls : Nat) : Nat :=
  match cls with
  | 0 | 1 => 1
  | 2 | 3 => 2
  | n => Config.oddPhases n

/-- The cartridge sector of sector `j` of placement `p`: cartridge start + j (R104). -/
def cartSector (pc : PlannedCart) (p j : Nat) : Nat := (pc.placements[p]?).elim 0 (·.cartStart) + j

/-- What the step of a socket addresses on its cartridge (R95, R104 to R106, R110). -/
def targetOf (s : State) (k : SocketNo) (op : Op) : BusTarget :=
  match op with
  | .headerWrite | .eraseHeader _ => .identity
  | .sectorWrite p j | .verifySector p j => .sector ((planIn s k).elim 0 (fun pc => cartSector pc p j))
  | .directoryWrite | .verifyDirectory => .sector 0
  | .erase _ g => .group g

/-- A transfer to a target on an identified cartridge: the identity area takes one address phase, a sector those of the
capacity class, and an erase group as many as a sector (log 51); a bus width of 16 moves two bytes per strobe (R95). -/
def transferTo (h : Header) (target : BusTarget) : Transfer :=
  { target := target
    phases := match target with
      | .identity => 1
      | .sector _ | .group _ => phasesOf h.capClass
    strobe := if h.width = 16 then 2 else 1 }

/-- The header read: one address phase, one byte per strobe (R95). -/
def identityRead : Transfer := { target := .identity, phases := 1, strobe := 1 }

/-- The transfer of the operation that a socket requests the bus for (R95). -/
def transferFor (s : State) (k : SocketNo) : Transfer :=
  match nextStep s k, (socketOf s k).bind (·.header) with
  | some op, some h => transferTo h (targetOf s k op)
  | _, _ => identityRead

/-- When a header write with the erased flag cleared is granted, the record becomes Writing (R103). -/
def noteGrant (k : SocketNo) (s : State) : State :=
  match nextStep s k, (socketOf s k).bind (·.serial) with
  | some .headerWrite, some serial => enterState serial .writing s
  | _, _ => s

/-- The free bus is granted to the first requesting socket after the last-granted one (R98). The read limit runs from the
grant, with which the address phase begins (R94; DESIGN CHOICE, log 89). -/
def grantBus (s : State) : State :=
  if s.de.grant.isSome then s
  else
    match (socketsAfter s.de.lastGranted).find? (fun k => (requestOf s k).isSome) with
    | none => s
    | some k =>
      match requestOf s k with
      | none => s
      | some op =>
        noteGrant k { s with de := { s.de with
          grant := some { socket := k, op := op, limit := some (s.clock + readLimitIn s k), transfer := transferFor s k }
          lastGranted := k } }

/-- What DE does by itself when something has changed: the walk, new writes, the write slot, the bus. -/
def deStage (s : State) : State := grantBus (fillSlot (startWrites (walk s)))

/-- The grant ends (R98). -/
def endGrant (s : State) : State := { s with de := { s.de with grant := none } }

/-! ## Failures (R108, R109, R111) -/

/-- The cartridge is Faulted (R109, R111): its record loses its link, the planned cartridge becomes unassigned, and
CartridgeFaulted is raised. -/
def faultCart (k : SocketNo) (s : State) : State :=
  let s := holdSocket k (clearSlots k s)
  match (socketOf s k).bind (·.serial) with
  | none => s
  | some serial =>
    raise (.cartridgeFaulted k)
      (unlinkPlan serial (enterState serial .faulted (changeCart serial (fun r => { r with link := none }) s)))

/-- A first failure: the cartridge is erased and rewritten as attempt 2, its record Writing (R108). -/
def rewriteCart (k : SocketNo) (s : State) : State :=
  let s := changeSocket k (fun e => { e with op := some (.erase true 0), attempt := 2 }) (clearSlots k s)
  match (socketOf s k).bind (·.serial) with
  | none => s
  | some serial => enterState serial .writing s

def Op.ofErase : Op → Bool
  | .erase _ _ | .eraseHeader _ => true
  | _ => false

/-- A program, verify or erase failure of the operation of a Busy socket (R108, R109, R111). -/
def opFails (k : SocketNo) (s : State) : State :=
  match socketOf s k with
  | none => s
  | some e =>
    match e.op with
    | none => s
    | some op => if op.ofErase || e.attempt == 2 then faultCart k s else rewriteCart k s

/-! ## Going on after a pass -/

/-- The position after sector `j` of placement `p`: the next sector, or the first of the next placement. -/
def nextPosition (pc : PlannedCart) (p j : Nat) : Option (Nat × Nat) :=
  if j + 1 < (pc.placements[p]?).elim 0 (·.length) then some (p, j + 1)
  else if p + 1 < pc.placements.length then some (p + 1, 0)
  else none

/-- The socket's next step. -/
def setOp (k : SocketNo) (op : Op) (s : State) : State := changeSocket k (fun e => { e with op := some op }) s

/-- The header in a socket entry is now as it was written: DE's copy takes the erased flag of a header write when the write
has programmed with pass (DESIGN CHOICE, log 90), and the wear count likewise (R110). -/
def setHeader (k : SocketNo) (h : Header) (s : State) : State := changeSocket k (fun e => { e with header := some h }) s

/-- The header write at the end of an erase has programmed with pass: the new wear count goes to CP (R110). -/
def wearReported (k : SocketNo) (serial : CartSerial) (h : Header) (s : State) : State :=
  changeCart serial (fun r => { r with wear := h.wear }) (setHeader k h s)

/-- The end of an erase that is not a rewrite erase (R111). -/
def eraseEnds (k : SocketNo) (serial : CartSerial) (h : Header) (s : State) : State :=
  let s := holdSocket k s
  if s.cfl.settings.wearLimit < h.wear then raise (.cartridgeRetired k) (enterState serial .retired s)
  else oweWalk (enterState serial .ready s)

/-- The write or erase command that a cartridge worked on has passed (R103 to R105, R110, R111). Only now does the copy of
the header in the socket entry take the erased flag of a header write (DESIGN CHOICE, log 90). -/
def opPasses (k : SocketNo) (s : State) : State :=
  match socketOf s k with
  | none => s
  | some e =>
    match e.op, e.header, e.serial with
    | some .headerWrite, some h, _ => setOp k (.sectorWrite 0 0) (setHeader k h.forWrite s)
    | some (.sectorWrite p j), _, _ =>
      match (planIn s k).bind (fun pc => nextPosition pc p j) with
      | some (p, j) => setOp k (.sectorWrite p j) s
      | none => setOp k .directoryWrite s
    | some .directoryWrite, _, some serial => enterState serial .verifying (setOp k (.verifySector 0 0) s)
    | some (.erase rw g), some h, _ =>
      if g + 1 < groupCount h then setOp k (.erase rw (g + 1)) s else setOp k (.eraseHeader rw) s
    | some (.eraseHeader false), some h, some serial => eraseEnds k serial h.forErase (wearReported k serial h.forErase s)
    | some (.eraseHeader true), some h, some serial => setOp k .headerWrite (wearReported k serial h.forErase s)
    | _, _, _ => s

/-- The cartridge is written (R106): the record becomes Written, the socket Holding, and the planned cartridge written
(R56). Written is a linked state, so the attempt number stays (R91). -/
def cartWritten (k : SocketNo) (s : State) : State :=
  let s := restSocket k s
  match (socketOf s k).bind (·.serial) with
  | none => s
  | some serial => writtenPlan serial (enterState serial .written s)

/-- Checks a sector read back (R106): a placement sector against the CRC area, sector 0 against the
directory CRC written. -/
def sectorChecks (s : State) (k : SocketNo) (bytes : List Byte) : Bool :=
  match (socketOf s k).bind (·.op), planIn s k with
  | some (.verifySector p j), some pc => (sourceSector s pc p j).any (fun x => crc32 bytes == checkOf s x.2)
  | some .verifyDirectory, some pc =>
    crc32 (bytes.take (directoryBody s pc).length) == (socketOf s k).elim 0 (·.dirCheck)
  | _, _ => false

/-- A sector read back has passed (R106). -/
def verifyPasses (k : SocketNo) (s : State) : State :=
  match (socketOf s k).bind (·.op), planIn s k with
  | some (.verifySector p j), some pc =>
    match nextPosition pc p j with
    | some (p, j) => setOp k (.verifySector p j) s
    | none => setOp k .verifyDirectory s
  | some .verifyDirectory, some _ => cartWritten k s
  | _, _ => s

/-! ## Identification (R92, R93, R113) -/

/-- CP's completion changes when identification after a reset is complete (R127), in the order of the record positions
(DESIGN CHOICE, log 52), and what waited for it: FLI starts (R199) and the walk runs (R99). -/
def completeStart (s : State) : State :=
  let s := (s.cp.records.map (·.2)).foldl (fun (s : State) (r : CartRecord) =>
    match r.state, r.socket with
    | .ready, none => enterState r.serial .blank s
    | .written, none => enterState r.serial .packed s
    | _, _ => s) s
  let s := { s with cfl := { s.cfl with phase := .running } }
  let s := if muted s then s else { s with fli := { s.fli with joinFrom := some s.clock } }
  oweWalk s

/-- A socket is no longer Identifying. When it was the last that the reset found occupied, identification after the
reset is complete (R113). A socket whose cartridge is pulled out before it is identified counts as identified (DESIGN
CHOICE, log 61). -/
def socketIdentified (k : SocketNo) (s : State) : State :=
  let left := s.de.unidentified.filter (fun j => j != k)
  let s' := { s with de := { s.de with unidentified := left } }
  if left.isEmpty && s.cfl.phase == .blocks then completeStart s' else s'

/-- The socket is Refused and SocketRefused raised (R92, R93). -/
def refuseSocket (k : SocketNo) (reason : SocketReason) (s : State) : State :=
  raise (.socketRefused k reason) (changeSocket k (fun e => { e with state := .refused }) s)

/-- The serial stands in another socket that is Identifying, Holding or Busy (R92). -/
def serialElsewhere (s : State) (k : SocketNo) (serial : CartSerial) : Bool :=
  s.de.sockets.any (fun e => e.1 != k.val && e.2.serial == some serial && e.2.state != .refused)

/-- The header is invalid by what it says (R92). -/
def Header.invalid (h : Header) : Bool := 4 < h.e || (h.width != 8 && h.width != 16)

/-- CP's answer to a valid header, carried out (R93). -/
def identify (k : SocketNo) (h : Header) (s : State) : State :=
  let s := changeSocket k (fun e => { e with serial := some h.serial, header := some h }) s
  if h.invalid then refuseSocket k .invalidHeader s
  else if serialElsewhere s k h.serial then refuseSocket k .serialInAnotherSocket s
  else
    match insertCart k h s with
    | (s, .ready) => oweWalk (holdSocket k s)
    | (s, .written) => holdSocket k s
    | (s, .erase) => startErase k h.serial (holdSocket k s)
    | (s, .refused reason) => refuseSocket k reason s

/-- The socket reads back a placement sector, which is checked against a check value from the image store (R106). -/
def verifiesSector (s : State) (k : SocketNo) : Bool :=
  match (socketOf s k).bind (·.op) with
  | some (.verifySector _ _) => true
  | _ => false

/-- The granted read is over: its bytes are in the read slot (R97). A slice of the write slot's sector that has been
requested of the store port by now goes before the check value of a placement sector (R88). -/
def landRead (k : SocketNo) (bytes : List Byte) (s : State) : State :=
  { s with de := { s.de with
      grant := none
      readSlot := some { socket := k, bytes := bytes, behind := verifiesSector s k && portWants s .duplicator } } }

/-- The read slot is emptied (R97). -/
def emptyRead (s : State) : State := { s with de := { s.de with readSlot := none } }

/-- The identity area has been read into the read slot, checked, and the slot emptied (R92, R97). -/
def headerRead (area : List Byte) (s : State) : State :=
  match s.de.grant with
  | some ⟨k, .headerRead, _, _⟩ =>
    socketIdentified k (identify k (readHeaderArea area) (emptyRead (landRead k area s)))
  | _ => s

/-- The cartridge has not signalled ready within its limit: it is not ready (R94). -/
def fallSilent (k : SocketNo) (s : State) : State := changeSocket k (fun e => { e with silent := true }) s

/-- A read failure of the transfer in progress (R94, R95): an unreadable header (R92), a verify failure (R106), a
program failure or an erase failure (R108, R109, R111). -/
def grantFails (s : State) : State :=
  match s.de.grant with
  | none => s
  | some g =>
    match g.op with
    | .headerRead => socketIdentified g.socket (refuseSocket g.socket .invalidHeader (endGrant s))
    | .write | .sectorRead | .erase => opFails g.socket (clearSlots g.socket (endGrant s))

/-- The read limit of the transfer in progress runs out before ready (R94): a read failure, and the cartridge is not
ready. -/
def grantLate (s : State) : State :=
  match s.de.grant with
  | none => s
  | some g => grantFails (fallSilent g.socket s)

/-- The cartridge of a granted socket has signalled its first ready of the transfer: the read limit is over (R94). -/
def Grant.readySeen (k : SocketNo) (g : Grant) : Grant := if g.socket = k then { g with limit := none } else g

/-- A cartridge signals ready during its transfer: the read limit ends (R94). No row of the table is named for this ready;
it is a CARTRIDGE_READY with pass that nothing else awaits, and a transfer that ends needs none before it (DESIGN CHOICE,
log 89). -/
def transferReady (k : SocketNo) (s : State) : State :=
  { s with de := { s.de with grant := s.de.grant.map (Grant.readySeen k) } }

/-! ## The cartridge's own work (R94, R96, R107) -/

/-- A write has been posted: the slot is empty, the grant over, the program limit runs (R96). -/
def postWrite (s : State) : State :=
  match s.de.grant with
  | some ⟨k, .write, _, _⟩ =>
    let limit := programLimitOf (((socketOf s k).bind (·.header)).elim 3 (·.access))
    changeSocket k (fun e => { e with deadline := some (s.clock + limit) })
      { s with de := { s.de with grant := none, writeSlot := none } }
  | _ => s

/-- An erase command has been sent: the grant is over, the group erase limit runs (R110, R94). -/
def sendErase (s : State) : State :=
  match s.de.grant with
  | some ⟨k, .erase, _, _⟩ =>
    let limit := eraseLimitOf (((socketOf s k).bind (·.header)).elim 3 (·.access))
    changeSocket k (fun e => { e with deadline := some (s.clock + limit) }) (endGrant s)
  | _ => s

/-- A sector read back is in the read slot (R97, R106). -/
def sectorRead (sector : List Byte) (s : State) : State :=
  match s.de.grant with
  | some ⟨k, .sectorRead, _, _⟩ => landRead k sector s
  | _ => s

/-- The store port can be given to DE (R88): no slice access of a stream is in progress and no fetch write waits. A
sector read of DE or scrub leaves the port between two of its slices. -/
def portForCheck (s : State) : Bool :=
  !(s.isc.port.any (fun u => portWants s u && !u.bySlices)) && !portWants s (.fetch 0) && !portWants s (.fetch 1)

/-- DE can check the sector in the read slot now (R97): the directory at once, a placement sector when its check value
can be read through the store port and no slice requested before it is still to be read (R106, R88). -/
def checkDue (s : State) : Bool :=
  match s.de.readSlot with
  | none => false
  | some r => !verifiesSector s r.socket || (portForCheck s && !r.behind)

/-- The slice of the write slot's sector that goes before the check has the store port: whether it is over now is a free
value (R88; log 42). -/
def passSlice (s : State) : State :=
  match s.de.readSlot with
  | some r =>
    if r.behind && s.isc.port == some .duplicator then
      { s with raceCount := s.raceCount + 1
               de := { s.de with readSlot := some { r with behind := !(Config.sliceOver s.raceCount) } } }
    else s
  | none => s

/-- DE checks the sector in the read slot and empties the slot (R97, R106). -/
def checkRead (s : State) : State :=
  match s.de.readSlot with
  | none => s
  | some r =>
    if sectorChecks s r.socket r.bytes then verifyPasses r.socket (emptyRead s) else opFails r.socket (emptyRead s)

/-- The cartridge no longer works on its own, and is ready. -/
def workOver (k : SocketNo) (s : State) : State :=
  changeSocket k (fun e => { e with deadline := none, stale := false, silent := false }) s

/-- A cartridge whose ready or fail is awaited signals (R94): it ends the cartridge's own work with pass or fail, or its work on a stopped
operation (R107); one whose limit has run out is ready again, its status being of no more use (log 55); a fail during
a transfer is a read failure (log 27). For a pass during a transfer see `transferReady`. -/
def cartReady (k : SocketNo) (pass : Bool) (s : State) : State :=
  match socketOf s k with
  | none => s
  | some e =>
    if e.deadline.isSome then
      let s := workOver k s
      if e.stale then s else if pass then opPasses k s else opFails k s
    else if e.silent then workOver k s
    else if !pass && s.de.grant.any (fun g => g.socket == k) then grantFails s
    else s

/-- A cartridge deadline runs out before ready: the operation fails and the cartridge is not ready (R94). After a stop
DE has waited long enough and goes on (R107). -/
def cartLate (k : SocketNo) (s : State) : State :=
  match socketOf s k with
  | none => s
  | some e =>
    if e.deadline.any s.reached then
      let s := workOver k s
      if e.stale then s else opFails k (fallSilent k s)
    else s

/-! ## The sector read for the write slot (R104) -/

/-- DE's sector read from the image store is complete: its check passes and the slot is full, or the image is
Damaged (R104, R87). -/
def slotFilled (s : State) : State :=
  match s.de.writeSlot with
  | some ⟨k, .filling phys i⟩ =>
    if sectorPasses s phys then fillFull k (sectorData s phys) s
    else damage i (clearSlots k s)
  | _ => s

/-! ## Removal (R112) -/

/-- The state that the record of a removed cartridge takes (R112). -/
def removedState (st : CartState) : CartState :=
  match st with
  | .ready => .blank
  | .written => .packed
  | .assigned | .writing | .verifying | .erasing => .missing
  | other => other

/-- The record of a cartridge removed from a Holding or Busy socket (R112). A socket that is Busy with a header write not
yet granted has an Assigned record, which becomes Missing as from a Holding socket (DEDUCED, log 56). -/
def removeRecord (serial : CartSerial) (s : State) : State :=
  match cartOf s serial with
  | none => s
  | some r =>
    let s := changeCart serial (fun r => { r with socket := none }) s
    let s := enterState serial (removedState r.state) s
    match r.state with
    | .assigned | .writing | .verifying => unlinkPlan serial (changeCart serial (fun r => { r with link := none }) s)
    | _ => s

/-- The present-detect line of a socket has become inactive (R112). A removal counts as identified (DESIGN CHOICE,
log 61). -/
def removeCart (k : SocketNo) (s : State) : State :=
  match socketOf s k with
  | none => s
  | some e =>
    let s := clearSlots k s
    let s := { s with de := { s.de with sockets := Table.drop k.val s.de.sockets } }
    let s :=
      match e.state, e.serial with
      | .holding, some serial | .busy, some serial => removeRecord serial s
      | _, _ => s
    socketIdentified k s

/-- A socket found occupied: it becomes Identifying (R92). -/
def startIdentify (k : SocketNo) (s : State) : State :=
  if (socketOf s k).isSome then s
  else
    let e : SocketEntry :=
      { state := .identifying, serial := none, header := none, op := none, attempt := 1, deadline := none,
        stale := false, silent := false, dirCheck := 0 }
    { s with de := { s.de with sockets := Table.put k.val e s.de.sockets } }

end Sys2Proof.Machine
end

