-- ==== Sys2Proof/Machine/Loans.lean ====
section
/-! DEFINITION. Loans and the calendar (chapter 8): loan serials, allocation, dates, the overdue scan and
write-off, and the requests of MLC and RTI. -/

namespace Sys2Proof.Machine

/-- The loan record of a tag. -/
def loanOf (s : State) (tag : LoanTag) : Option Loan := (s.lu.loans.find? (fun e => e.2.tag == tag)).map (·.2)

/-- Changes the loan record of a tag. -/
def changeLoan (tag : LoanTag) (f : Loan → Loan) (s : State) : State :=
  let loans := s.lu.loans.map (fun e => if e.2.tag = tag then (e.1, f e.2) else e)
  { s with lu := { s.lu with loans := loans } }

/-- The loan record of a tag is removed and its position free (R145, R146). -/
def removeLoan (tag : LoanTag) (s : State) : State :=
  { s with lu := { s.lu with loans := s.lu.loans.filter (fun e => e.2.tag != tag) } }

/-- The copy-set tag of a braille loan. -/
def LoanBody.copySet? : LoanBody → Option LoanTag
  | .cartridge _ => none
  | .braille _ _ set _ _ _ _ _ => some set

/-! ## Allocation (R147, R148) -/

/-- A record of the table holds a loan serial. -/
def serialHeld (s : State) (n : LoanSerial) : Bool := s.lu.loans.any (fun e => e.2.tag.serial == n)

/-- The first of `n`, `n + 1`, ... (wrapping) that is not held; `tests` bounds the search (R147). -/
def firstSerial (held : LoanSerial → Bool) : Nat → LoanSerial → LoanSerial
  | 0, n => n
  | tests + 1, n => if held n then firstSerial held tests (n + 1) else n

/-- The serial that the next allocation takes (R147): the table holds fewer records than the tests made. -/
def nextLoanSerial (s : State) : LoanSerial := firstSerial (serialHeld s) s.lu.loans.length s.lu.nextSerial

/-- Strikes the serials of a new loan from the contents of another record (R148). -/
def Loan.strike (serials : List CartSerial) (l : Loan) : Loan :=
  match l.body with
  | .cartridge cs => { l with body := .cartridge (cs.filter (fun c => !serials.contains c)) }
  | .braille _ _ _ _ _ _ _ _ => l

/-- The cartridge serials of a loan body. -/
def LoanBody.serials : LoanBody → List CartSerial
  | .cartridge cs => cs
  | .braille _ _ _ _ _ _ _ _ => []

/-- The configured loan days for a body (R148). -/
def loanDays (s : State) : LoanBody → Nat
  | .cartridge _ => s.cfl.settings.loanDaysCart
  | .braille _ _ _ _ _ _ _ _ => s.cfl.settings.loanDaysBrl

/-- What LU answers to MLC's asking for a loan. -/
inductive LoanAnswer where
  | blocked (reason : BlockReason)
  | loan (l : Loan)
  deriving DecidableEq, Repr

/-- LU allocates a Carded loan for a container of the record; `body` gives the contents from the new tag
(R148). -/
def allocateLoan (r : WorkRecord) (body : LoanTag → LoanBody) (s : State) : State × LoanAnswer :=
  if !s.lu.dayKnown then (s, .blocked .dayUnknown)
  else
    match Table.firstFree 2048 s.lu.loans with
    | none => (s, .blocked .loansFull)
    | some k =>
      let serial := nextLoanSerial s
      let tag : LoanTag := { station := own s, serial := serial }
      let l : Loan :=
        { tag := tag, order := r.order, patron := r.patron, zone := r.zone, body := body tag,
          carded := s.lu.day, due := saturate 65535 (s.lu.day + loanDays s (body tag)), state := .carded }
      let struck := s.lu.loans.map (fun e => (e.1, e.2.strike (body tag).serials))
      ({ s with lu := { s.lu with loans := Table.put k l struck, nextSerial := serial + 1 } }, .loan l)

/-! ## The calendar (R151) -/

def leapYear (y : Nat) : Bool := y % 4 == 0 && y != 2100

def yearLength (y : Nat) : Nat := if leapYear y then 366 else 365

def monthLength (y m : Nat) : Nat :=
  match m with
  | 2 => if leapYear y then 29 else 28
  | 4 | 6 | 9 | 11 => 30
  | _ => 31

/-- Subtracts whole years from `y` on while the remainder is at least the next one's length; `n` bounds them. -/
def takeYears : Nat → Nat → Nat → Nat × Nat
  | 0, y, d => (y, d)
  | n + 1, y, d => if d < yearLength y then (y, d) else takeYears n (y + 1) (d - yearLength y)

/-- Subtracts whole months of year `y` from month `m` on. -/
def takeMonths (y : Nat) : Nat → Nat → Nat → Nat × Nat
  | 0, m, d => (m, d)
  | n + 1, m, d => if d < monthLength y m then (m, d) else takeMonths y n (m + 1) (d - monthLength y m)

/-- The date of a day number as the decimal number YYYYMMDD (R151). -/
def dateOf (day : Nat) : Nat :=
  let (y, d) := takeYears 180 2000 day
  let (m, d) := takeMonths y 11 1 d
  y * 10000 + m * 100 + (d + 1)

/-! ## Requests (R149) -/

/-- Bin entry: a Carded loan becomes Out. -/
def loanEntersBin (tag : LoanTag) (s : State) : State :=
  changeLoan tag (fun l => if l.state = .carded then { l with state := .out } else l) s

/-- LU's answer to a close at the own chute (R149). -/
inductive CloseAnswer where
  | notFound
  | notMailed
  | closed (l : Loan) (lastPart : Bool)
  deriving DecidableEq, Repr

/-- Another record carries the copy-set tag. -/
def setRemains (s : State) (set : LoanTag) : Bool := s.lu.loans.any (fun e => e.2.body.copySet? == some set)

/-- A loan is closed at the own chute (R149). -/
def closeLoan (tag : LoanTag) (s : State) : State × CloseAnswer :=
  match loanOf s tag with
  | none => (s, .notFound)
  | some l =>
    if l.state = .carded then (s, .notMailed)
    else
      let s := removeLoan tag s
      (s, .closed l (l.body.copySet?.any (fun set => !setRemains s set)))

/-- A RETURN names a loan (R149, R182). -/
def returnLoan (tag : LoanTag) (transfer : Bool) (s : State) : State :=
  match loanOf s tag with
  | none => s
  | some l =>
    if l.state = .out || l.state = .overdue then
      (if transfer then changeLoan tag (fun l => { l with state := .inTransfer }) s else removeLoan tag s)
    else s

/-! ## The overdue scan (R153 to R156) -/

/-- A loan written off: its order and its tag. -/
abbrev WrittenOff := OrderSerial × LoanTag

/-- One record is written off (R154, R155): removed, counted and reported. -/
def writeOffLoan (s : State) (l : Loan) : State :=
  let s := removeLoan l.tag s
  let s := l.body.serials.foldl (leavePool l.tag) s
  raise (.loanWrittenOff l.tag) { s with lu := { s.lu with writeOffs := bump 65535 s.lu.writeOffs } }

/-- The records of a copy set, in position order: the order in which R155's one act writes them off (DESIGN CHOICE,
log 62). -/
def setLoans (s : State) (set : LoanTag) : List Loan :=
  (s.lu.loans.map (·.2)).filter (fun l => l.body.copySet? == some set)

/-- The write-off of a loan that has met the test of R153: a cartridge loan by itself, a braille part with its copy
set unless a part of it is Carded or InTransfer (R154, R155). -/
def writeOff (l : Loan) (s : State) : State × List WrittenOff :=
  match l.body with
  | .cartridge _ => (writeOffLoan s l, [(l.order, l.tag)])
  | .braille _ title set _ _ _ _ _ =>
    let ls := setLoans s set
    if ls.any (fun x => x.state == .carded || x.state == .inTransfer) then (s, [])
    else (copyWrittenOff title (ls.foldl writeOffLoan s), ls.map (fun x => (x.order, x.tag)))

/-- The scan at one position (R153). -/
def scanLoan (acc : State × List WrittenOff) (pos : Nat) : State × List WrittenOff :=
  match acc.1.lu.loans.at? pos with
  | none => acc
  | some l =>
    let today := acc.1.lu.day
    let late := l.state == .overdue || (l.state == .out && l.due < today)
    if !late then acc
    else
      let s := changeLoan l.tag (fun l => { l with state := .overdue }) acc.1
      if l.due + s.cfl.settings.writeOffDays ≤ today then
        let out := writeOff { l with state := .overdue } s
        (out.1, acc.2 ++ out.2)
      else (s, acc.2)

/-- The order serials of written-off loans, each once, in the order first met. -/
def ordersOf : List WrittenOff → List OrderSerial
  | [] => []
  | (o, _) :: rest => o :: (ordersOf rest).filter (fun x => x != o)

/-- Cuts tags into groups of at most 16; `n` bounds the groups. -/
def tagGroups : Nat → List LoanTag → List (List LoanTag)
  | 0, _ => []
  | n + 1, ts => if ts.isEmpty then [] else ts.take 16 :: tagGroups n (ts.drop 16)

/-- CLOSED(WrittenOff) for one order, at most 16 tags to a frame (R156). -/
def closeWrittenOff (ws : List WrittenOff) (s : State) (order : OrderSerial) : State :=
  let tags := (ws.filter (fun w => w.1 == order)).map (·.2)
  (tagGroups tags.length tags).foldl
    (fun s ts => offerFrame .lu (closedFrame order 255 .writtenOff ts) s) s

/-- One overdue scan with the frames of write-off, then SHU's lapse test (R153, R156). -/
def overdueScan (s : State) : State :=
  let out := (s.lu.loans.map (·.1)).foldl scanLoan (s, [])
  lapseScan ((ordersOf out.2).foldl (closeWrittenOff out.2) out.1)

/-- A DAY is delivered (R150). -/
def hearDay (f : Received) (s : State) : State :=
  let d := f.subject.toNat
  if 65535 < d then s
  else if d < s.lu.day then raise (.dayRegression d) s
  else if d = s.lu.day then fillPlacedDays d { s with lu := { s.lu with dayKnown := true } }
  else overdueScan (fillPlacedDays d { s with lu := { s.lu with day := d, dayKnown := true } })

end Sys2Proof.Machine
end

