-- ==== Sys2Proof/Machine/Mailing.lean ====
section
/-! DEFINITION. The mail lane controller (chapter 9): picks and packing, cards, the lane state, the gate, bins,
sacks and the manifest. -/

namespace Sys2Proof.Machine

/-! ## Picks (R159) -/

/-- A Written bundle of the order carries the item with its pick Pending (R159). -/
def pickPending (s : State) (order : OrderSerial) (item : Nat) : Bool :=
  (recordOf s order).any fun r => r.bundles.any fun b =>
    b.state == .written && b.riders.any (fun x => x.item == item && x.pick == some .pending)

/-- The pick of an item of a Written bundle becomes Picked. -/
def Bundle.confirmPick (item : Nat) (b : Bundle) : Bundle :=
  if b.state = .written then
    { b with riders := b.riders.map (fun x => if x.item = item then { x with pick := some .picked } else x) }
  else b

/-- PickDone (R159): `none` when refused. -/
def pickDone (order : OrderSerial) (item : Nat) (s : State) : Option State :=
  if pickPending s order item then
    some (changeRecord order (fun r => { r with bundles := r.bundles.map (Bundle.confirmPick item) }) s)
  else none

/-! ## Packing (R160) -/

/-- The weight of a container (R160). -/
def Container.weight (c : Container) : Nat :=
  match c.body with
  | .cartridges serials => serials.length
  | .braille _ _ _ _ first last _ => last + 1 - first

/-- The cartridge container of a bundle, if it holds any planned cartridge (R160). -/
def cartContainer (s : State) (order : OrderSerial) (b : Bundle) : List Container :=
  let carts := bundleCarts s order b.number
  if carts.isEmpty then []
  else
    [{ body := .cartridges (carts.filterMap (fun e => e.2.link)),
       items := (carts.flatMap (fun e => e.2.placements.map (·.item))).dedup, state := .uncarded, tag := none }]

/-- The parts of the copy of one riding item (R132, R160). -/
def copyContainers (s : State) (r : WorkRecord) (item : Nat) : List Container :=
  match riderTitle r { item := item, pick := none, copySet := none } with
  | none => []
  | some title =>
    let v := (shelfOf s title).elim 0 (·.perCopy)
    (List.range (ceilDiv v 4)).map fun i =>
      { body := .braille item title (i + 1) (ceilDiv v 4) (4 * i + 1) (min (4 * (i + 1)) v) v,
        items := [item], state := .uncarded, tag := none }

/-- The container list of a bundle (R160). -/
def containerList (s : State) (r : WorkRecord) (b : Bundle) : List Container :=
  cartContainer s r.order b ++ (sortBy id (b.riders.map (·.item))).flatMap (copyContainers s r)

/-- A Written bundle is ready to pack: every cartridge Packed, every riding item Picked (R160). -/
def readyToPack (s : State) (order : OrderSerial) (b : Bundle) : Bool :=
  b.state == .written
    && (bundleCarts s order b.number).all
        (fun e => (e.2.link.bind (cartOf s)).any (fun r => r.state == .packed))
    && b.riders.all (fun x => x.pick == some .picked)

/-- MLC tests one bundle, which may enter Packing (R160, R53). -/
def packBundle (r : WorkRecord) (s : State) (b : Bundle) : State :=
  if readyToPack s r.order b then
    let cs := containerList s r b
    let s := changeRecord r.order
      (WorkRecord.changeBundle b.number (fun b => { b with state := .packing, containers := cs })) s
    { s with mlc := { s.mlc with laneList := s.mlc.laneList ++ [(r.order, b.number)] } }
  else s

/-- MLC tests the Written bundles (R160). Several that become ready in one act join the lane list in queue order (DESIGN
CHOICE, log 82). -/
def packBundles (s : State) : State := s.wq.records.foldl (fun s r => r.bundles.foldl (packBundle r) s) s

/-! ## The lane state (R161) -/

/-- The first condition of R161 that holds. -/
def laneReason (s : State) : Option BlockReason :=
  if !s.lu.dayKnown then some .dayUnknown
  else if 2048 ≤ s.lu.loans.length then some .loansFull
  else if 6 ≤ s.mlc.laneOrder.length then some .laneOrderFull
  else
    match s.mlc.gate with
    | .holding _ _ => some .noOpenBin
    | .empty | .diverting _ _ => none

/-- MLC sets the lane state anew: LaneBlocked when it blocks or its reason changes (R161). -/
def updateLane (s : State) : State :=
  if laneReason s = s.mlc.lane then s
  else
    let s' := { s with mlc := { s.mlc with lane := laneReason s } }
    match laneReason s with
    | some reason => raise (.laneBlocked reason) s'
    | none => s'

/-! ## Containers of the lane -/

/-- Where a container stands: its order, its bundle number and its place in the container list. -/
structure Spot where
  order  : OrderSerial
  bundle : Nat
  index  : Nat
  deriving DecidableEq, Repr

/-- The bundle of the lane list entry. -/
def laneBundle (s : State) (e : OrderSerial × Nat) : Option Bundle :=
  (recordOf s e.1).bind (fun r => r.bundle? e.2)

/-- The first container of the lane, in lane list order, that satisfies `p`. -/
def findContainer (s : State) (p : Container → Bool) : Option (Spot × Container) :=
  s.mlc.laneList.findSome? fun e =>
    (laneBundle s e).bind fun b =>
      (b.containers.zipIdx.find? (fun c => p c.1)).map fun c =>
        (({ order := e.1, bundle := e.2, index := c.2 } : Spot), c.1)

/-- The container that holds a loan's tag. -/
def containerOf (s : State) (tag : LoanTag) : Option (Spot × Container) :=
  findContainer s (fun c => c.tag == some tag)

/-- Changes the bundle at a spot. -/
def changeSpotBundle (sp : Spot) (f : Bundle → Bundle) (s : State) : State :=
  changeRecord sp.order (WorkRecord.changeBundle sp.bundle f) s

/-- Changes the container at a spot. -/
def changeContainer (sp : Spot) (f : Container → Container) (s : State) : State :=
  changeSpotBundle sp (fun b => { b with containers := b.containers.modify sp.index f }) s

/-- The bundle at a spot. -/
def spotBundle (s : State) (sp : Spot) : Option Bundle := laneBundle s (sp.order, sp.bundle)

/-! ## Cards (R162, R163) -/

/-- What the return face of a loan's card holds (R162). -/
def Loan.card (l : Loan) : Card :=
  { tag := l.tag
    body := match l.body with
      | .cartridge serials => .cartridge serials
      | .braille _ title set part parts first last _ => .braille title set part parts first last }

/-- The outbound face, 21 bytes (R162, R201). -/
def outboundFace (l : Loan) : List Byte :=
  let (k, n) := match l.body with
    | .cartridge _ => (0, 0)
    | .braille _ _ _ part parts _ _ _ => (part, parts)
  bytesLE 4 l.patron.toNat ++ bytesLE 2 l.zone ++ bytesLE 4 l.order.toNat ++ bytesLE 1 l.card.body.code
    ++ bytesLE 1 k ++ bytesLE 1 n ++ bcdBytes 4 (dateOf l.carded) ++ bcdBytes 4 (dateOf l.due)

/-- The card image: the outbound face, then the return face (R162, R201). -/
def cardImage (l : Loan) : List Byte := outboundFace l ++ returnFace l.card

/-- What MLC drives on the line to the card writer: each byte of the card image, least significant bit first (R201). -/
def cardBits (l : Loan) : List Bool := (cardImage l).flatMap bitsOfByte

/-- The copy-set tag of a riding item. -/
def riderSet (b : Bundle) (item : Nat) : Option LoanTag :=
  (b.riders.find? (fun x => x.item == item)).bind (·.copySet)

/-- The volumes per copy that a loan of a title carries: the shelf entry's at carding (R145); those of the container
where the entry has gone meanwhile (DESIGN CHOICE, log 54). -/
def perCopyNow (s : State) (title : Title) (packed : Nat) : Nat := (shelfOf s title).elim packed (·.perCopy)

/-- The contents that MLC gives LU for a container: a new copy's set tag is the new loan's own (R148, R162). -/
def loanBody (s : State) (b : Bundle) (c : Container) (tag : LoanTag) : LoanBody :=
  match c.body with
  | .cartridges serials => .cartridge serials
  | .braille item title part parts first last perCopy =>
    .braille item title ((riderSet b item).getD tag) part parts first last (perCopyNow s title perCopy)

/-- The card state of a loan of the lane order. -/
def setCard (tag : LoanTag) (cs : CardState) (s : State) : State :=
  let order := s.mlc.laneOrder.map (fun l => if l.tag = tag then { l with card := cs } else l)
  { s with mlc := { s.mlc with laneOrder := order } }

def setWriter (w : Writer) (s : State) : State := { s with mlc := { s.mlc with writer := w } }

/-- The first part of a copy set gives its item the copy-set tag (R162). -/
def Bundle.noteSet (c : Container) (tag : LoanTag) (b : Bundle) : Bundle :=
  match c.body with
  | .cartridges _ => b
  | .braille item _ _ _ _ _ _ =>
    let riders := b.riders.map
      (fun x => if x.item = item && x.copySet.isNone then { x with copySet := some tag } else x)
    { b with riders := riders }

/-- The serials that a container carries. -/
def Container.serials (c : Container) : List CartSerial :=
  match c.body with
  | .cartridges serials => serials
  | .braille _ _ _ _ _ _ _ => []

/-- A container gets its loan: what MLC does in one act (R162). -/
def cardContainer (sp : Spot) (c : Container) (l : Loan) (s : State) : State :=
  let s := changeContainer sp (fun c => { c with state := .carded, tag := some l.tag }) s
  let s := changeSpotBundle sp (Bundle.noteSet c l.tag) s
  let s := c.serials.foldl (fun s x => changeCart x (fun r => { r with tag := some l.tag }) s) s
  { s with mlc := { s.mlc with laneOrder := s.mlc.laneOrder ++ [{ tag := l.tag, card := .writing }],
                               writer := .writing l.tag none, cardOut := cardBits l } }

/-- MLC cards the next container when the writer is Idle and the lane allows (R162). -/
def cardNext (s : State) : State :=
  if s.mlc.writer != .idle || 6 ≤ s.mlc.laneOrder.length then s
  else
    match findContainer s (fun c => c.state == .uncarded) with
    | none => s
    | some (sp, c) =>
      match recordOf s sp.order, spotBundle s sp with
      | some r, some b =>
        match allocateLoan r (loanBody s b c) s with
        | (s, .loan l) => cardContainer sp c l s
        | (s, .blocked _) => s
      | _, _ => s

/-- What MLC does by itself when something has changed (R160 to R162). -/
def mlcStage (s : State) : State := updateLane (cardNext (updateLane (packBundles s)))

/-- Every container is Entered, or Carded with its card Done (R163). -/
def allPrinted (s : State) (b : Bundle) : Bool :=
  b.containers.all fun c =>
    c.state == .entered
      || (c.state == .carded && s.mlc.laneOrder.any (fun l => c.tag == some l.tag && l.card == .done))

/-- The bundle of a printed card becomes Laned when every container's card is printed (R163). -/
def laneIfPrinted (tag : LoanTag) (s : State) : State :=
  match containerOf s tag with
  | none => s
  | some (sp, _) =>
    match spotBundle s sp with
    | none => s
    | some b =>
      if b.state = .packing && allPrinted s b then changeSpotBundle sp (fun b => { b with state := .laned }) s
      else s

/-- The writer is Writing for a tag. -/
def Writer.isWriting (w : Writer) (tag : LoanTag) : Bool :=
  match w with
  | .writing t _ => t == tag
  | .idle | .fault _ => false

/-- Done: the writer's answer for a tag (R163). -/
def cardDone (tag : LoanTag) (s : State) : State :=
  if s.mlc.writer.isWriting tag then laneIfPrinted tag (setWriter .idle (setCard tag .done s)) else s

/-- A card has failed (R163). -/
def cardFails (tag : LoanTag) (s : State) : State := raise (.cardFault tag) (setWriter (.fault tag) (setCard tag .fault s))

/-- Fault: the writer's answer for a tag (R163). -/
def cardFaulted (tag : LoanTag) (s : State) : State := if s.mlc.writer.isWriting tag then cardFails tag s else s

/-- The card deadline is reached without an answer (R163). -/
def cardOverdue (s : State) : State :=
  match s.mlc.writer with
  | .writing tag (some d) => if s.reached d then cardFails tag s else s
  | _ => s

/-- The last bit of the card image has been sent (R162). It is taken for the card that the writer is at: after a
withdrawal (R164) that is the next one, whose image the writer lines carry from then on (DESIGN CHOICE, log 63). -/
def cardSent (s : State) : State :=
  match s.mlc.writer with
  | .writing tag none => setWriter (.writing tag (some (s.clock + ms 2000))) s
  | _ => s

/-- CardRewrite (R163): `none` when refused. -/
def cardRewrite (s : State) : Option State :=
  match s.mlc.writer with
  | .fault tag =>
    let s := setWriter (.writing tag none) (setCard tag .writing s)
    some (match loanOf s tag with
      | some l => { s with mlc := { s.mlc with cardOut := cardBits l } }
      | none => s)
  | _ => none

/-! ## Withdrawal (R164) -/

/-- The loan that the gate is handling. -/
def gateTag (s : State) : Option LoanTag :=
  match s.mlc.gate with
  | .empty => none
  | .diverting tag _ => tag
  | .holding tag _ => tag

/-- The item's copy-set tag becomes absent when no other part of it is Carded or Entered (R164). -/
def Bundle.dropSet (c : Container) (b : Bundle) : Bundle :=
  match c.body with
  | .cartridges _ => b
  | .braille item _ _ _ _ _ _ =>
    if b.containers.any (fun x => x.items == [item] && x.serials.isEmpty && x.state != .uncarded) then b
    else { b with riders := b.riders.map (fun x => if x.item = item then { x with copySet := none } else x) }

/-- The container of a withdrawn loan goes back to Uncarded, and a Laned bundle to Packing (R164). -/
def uncard (tag : LoanTag) (s : State) : State :=
  match containerOf s tag with
  | none => s
  | some (sp, c) =>
    let s := changeContainer sp (fun c => { c with state := .uncarded, tag := none }) s
    let s := c.serials.foldl (fun s x => changeCart x (fun r => { r with tag := none }) s) s
    let s := changeSpotBundle sp (Bundle.dropSet c) s
    changeSpotBundle sp (fun b => if b.state = .laned then { b with state := .packing } else b) s

/-- The card writer is Writing or in Fault for a tag. -/
def Writer.concerns (w : Writer) (tag : LoanTag) : Bool :=
  match w with
  | .writing t _ => t == tag
  | .fault t => t == tag
  | .idle => false

/-- ContainerWithdraw (R164): `none` when refused. A card that is being written is given up at once, also while its image
still goes out (DESIGN CHOICE, log 63). -/
def withdrawContainer (tag : LoanTag) (s : State) : Option State :=
  if s.mlc.laneOrder.any (fun l => l.tag == tag) && gateTag s != some tag then
    let s := uncard tag (removeLoan tag s)
    let s := { s with mlc := { s.mlc with laneOrder := s.mlc.laneOrder.filter (fun l => l.tag != tag) } }
    some (if s.mlc.writer.concerns tag then setWriter .idle s else s)
  else none

/-! ## The gate (R165 to R167) -/

/-- What the sort rules look at (R166). -/
structure RuleFields where
  zone    : Nat
  kind    : Nat
  weight  : Nat
  urgency : Nat
  deriving DecidableEq, Repr

def RuleFields.get (f : RuleFields) : RuleField → Nat
  | .zone => f.zone
  | .kind => f.kind
  | .weight => f.weight
  | .urgency => f.urgency

/-- The tests of R166. -/
def RuleTest.passes (t : RuleTest) (lo hi v : Nat) : Bool :=
  match t with
  | .equal => v == lo
  | .notEqual => v != lo
  | .less => v < lo
  | .greaterOrEqual => lo ≤ v
  | .inside => lo ≤ v && v ≤ hi
  | .outside => v < lo || hi < v

/-- The bin of the first rule that matches, or the default bin (R166). -/
def chooseBin (rules : List SortRule) (default : Nat) (f : RuleFields) : Nat :=
  match rules.find? (fun r => r.test.passes r.lo r.hi (f.get r.field)) with
  | some r => r.bin
  | none => default

/-- The fields of the container of a loan (R166). -/
def ruleFields (s : State) (tag : LoanTag) : RuleFields :=
  { zone := (loanOf s tag).elim 0 (·.zone)
    kind := (loanOf s tag).elim 0 (fun l => l.card.body.code)
    weight := (containerOf s tag).elim 0 (fun c => c.2.weight)
    urgency := ((loanOf s tag).bind (fun l => recordOf s l.order)).elim 0 (fun r => r.urgency.code) }

def binOpen (s : State) (b : Nat) : Bool := (s.mlc.bins[b]?).any (fun x => x.state == .open)

def setGate (g : Gate) (s : State) : State := { s with mlc := { s.mlc with gate := g } }

/-- The gate goes for a bin: the bin chosen first, else the overflow bin, else it holds (R167). -/
def aimGate (tag : Option LoanTag) (bin : Nat) (s : State) : State :=
  if binOpen s bin then setGate (.diverting tag bin) s
  else if binOpen s s.cfl.settings.overflowBin then setGate (.diverting tag s.cfl.settings.overflowBin) s
  else setGate (.holding tag bin) s

/-- A detection (R165): acted on only while the gate is Empty. -/
def detect (s : State) : State :=
  if s.mlc.gate != .empty then s
  else
    match s.mlc.laneOrder.find? (fun l => l.card == .done) with
    | some l =>
      aimGate (some l.tag) (chooseBin s.cfl.settings.rules s.cfl.settings.defaultBin (ruleFields s l.tag)) s
    | none => aimGate none s.cfl.settings.overflowBin (raise .unexpectedContainer s)

/-- A Holding gate tries again (R167). -/
def retryGate (s : State) : State :=
  match s.mlc.gate with
  | .holding tag bin => aimGate tag bin s
  | .empty | .diverting _ _ => s

/-! ## Entry into a bin (R168, R169) -/

def changeBin (b : Nat) (f : Bin → Bin) (s : State) : State :=
  { s with mlc := { s.mlc with bins := s.mlc.bins.modify b f } }

/-- A bin after one more container (R168, R169). -/
def Bin.add (tag : Option LoanTag) (b : Bin) : Bin :=
  { b with count := b.count + 1
           first := if b.first.isNone then tag else b.first
           last := if tag.isSome then tag else b.last
           state := if b.capacity ≤ b.count + 1 then .full else b.state }

/-- The bin counts the container; BinFull when it fills (R169). -/
def countEntry (tag : Option LoanTag) (bin : Nat) (s : State) : State :=
  let s' := changeBin bin (Bin.add tag) s
  if binOpen s bin && !binOpen s' bin then raise (.binFull bin) s' else s'

/-- The first part of a copy set to enter a bin takes the copy off the shelf (R168, R131). -/
def shelfEntry (b : Bundle) (c : Container) (s : State) : State :=
  match c.body with
  | .cartridges _ => s
  | .braille item title _ _ _ _ _ =>
    if b.containers.any (fun x => x.items == [item] && x.serials.isEmpty && x.state == .entered) then s
    else copyLeaves title s

/-- The bundle whose every container is Entered becomes Mailed (R168, R53). -/
def mailIfEntered (sp : Spot) (s : State) : State :=
  match spotBundle s sp with
  | none => s
  | some b =>
    if b.containers.all (fun c => c.state == .entered) then
      mailBundle sp.order sp.bundle
        { s with mlc := { s.mlc with laneList := s.mlc.laneList.filter (fun e => e != (sp.order, sp.bundle)) } }
    else s

/-- What the entry of a matched container does beyond the bin (R168). Its cartridges become Out in the order in which the
container holds them (DESIGN CHOICE, log 75). -/
def enterContainer (tag : LoanTag) (s : State) : State :=
  let s := loanEntersBin tag s
  let s := { s with mlc := { s.mlc with laneOrder := s.mlc.laneOrder.filter (fun l => l.tag != tag) } }
  match containerOf s tag with
  | none => s
  | some (sp, c) =>
    let s := c.serials.foldl (fun s x => enterState x .out s) s
    let s := match spotBundle s sp with | some b => shelfEntry b c s | none => s
    let s := changeContainer sp (fun c => { c with state := .entered }) s
    mailIfEntered sp (noteEntered sp.order tag c.items s)

/-- The diverter's acknowledge (R168): ignored while the gate is not Diverting. -/
def acknowledge (s : State) : State :=
  match s.mlc.gate with
  | .diverting tag bin =>
    let s := setGate .empty (countEntry tag bin s)
    match tag with
    | some t => enterContainer t s
    | none => s
  | .empty | .holding _ _ => s

/-! ## Sacks (R170 to R172) -/

/-- The gate is Diverting into a bin. -/
def divertingInto (s : State) (bin : Nat) : Bool :=
  match s.mlc.gate with
  | .diverting _ b => b == bin
  | .empty | .holding _ _ => false

/-- The manifest record of a sack is written at the write position (R172). -/
def writeManifest (bin : Nat) (b : Bin) (s : State) : State :=
  let r : ManifestRec :=
    { sack := s.mlc.sackNo, bin := bin, count := b.count, first := b.first, last := b.last,
      day := s.lu.day, dayKnown := s.lu.dayKnown }
  { s with mlc := { s.mlc with manifest := Table.put s.mlc.writePos r s.mlc.manifest,
                               writePos := (s.mlc.writePos + 1) % 64,
                               sackNo := (s.mlc.sackNo + 1) % 65536 } }

/-- SackChanged (R170): `none` when refused. -/
def sackChanged (bin : Nat) (s : State) : Option State :=
  match s.mlc.bins[bin]? with
  | none => none
  | some b =>
    if b.state = .disabled || divertingInto s bin then none
    else
      some (retryGate (changeBin bin (fun b => { b with state := .open, count := 0, first := none, last := none })
        (writeManifest bin b s)))

/-- SackClose (R171): `none` when refused. -/
def sackClose (bin : Nat) (s : State) : Option State :=
  match s.mlc.bins[bin]? with
  | none => none
  | some b =>
    if b.state = .open && !divertingInto s bin then some (changeBin bin (fun b => { b with state := .full }) s)
    else none

end Sys2Proof.Machine
end

