-- ==== Sys2Proof/Machine/Settle.lean ====
section
/-! DEFINITION. The acts that follow from an act: what each block does by itself when the tables it watches have
changed. A command's meaning runs its own act and then those of the stages below that its act can concern; their
order is the model's (DESIGN CHOICE, log 7). -/

namespace Sys2Proof.Machine

/-- SHU runs the serve passes that are owed and announces free copies (R136, R137). -/
def shelfStage (s : State) : State := announce (serveDue s)

/-- The sector in the read slot is checked when it can be (R97, R88), and the image store goes on from the pins that a
written cartridge releases. -/
def checkStage (s : State) : State :=
  let s := passSlice s
  if checkDue s then settleStore (checkRead s) else s

/-- DE and the store port go on (R96 to R103, R88): first the check of a sector that waits in the read slot; a cartridge
linked by the walk, or written, sets its bundle's state anew (R52). -/
def rackStage (s : State) : State := grantPort (renewBundles (deStage (checkStage s)))

/-- The work queue, the shelf, the image store, the rack and the lane, in this order. -/
def fullStage (s : State) : State :=
  mlcStage (rackStage (settleStore (shelfStage (settleWork s))))

end Sys2Proof.Machine
end

