-- ==== Sys2Proof/Machine/Returns.lean ====
section
/-! DEFINITION. The return intake (chapter 10): the chute, own returns, strays, other stations' loans, RETURN
notices and keyed returns. -/

namespace Sys2Proof.Machine

/-- Container present (R174): an Idle chute reads, with 100 ms for the card image. -/
def chutePresent (s : State) : State :=
  if s.rti.chute = .idle then
    { s with rti := { s.rti with chute := .reading, deadline := some (s.clock + ms 100) } }
  else s

/-- The route is decided and signalled; the chute waits for the route done (R174). -/
def routeTo (r : Route) (s : State) : State :=
  { s with rti := { s.rti with chute := .routing, deadline := none, route := some r } }

/-- The number of pulses that signal a route (R174). -/
def Route.pulses : Route → Nat
  | .intake => 1
  | .transfer => 2
  | .manual => 3

/-- RTI reports a copy home to SHU: the intake table, or the manual bin when SHU refuses it (R178). -/
def bringHome (title : Title) (perCopy : Nat) (s : State) : State × Route :=
  match copyHome title perCopy s with
  | some s => (s, .intake)
  | none => (raise (.returnUnread .shelfRefused) s, .manual)

/-- A stray: the loan is not found (R180). -/
def strayReturn (c : Card) (s : State) : State × Route :=
  let s := raise (.strayReturn c.tag) s
  match c.body with
  | .cartridge serials => (serials.foldl chuteEntry s, .intake)
  | .braille title _ part _ _ _ =>
    if (shelfOf s title).isNone then (s, .manual)
    else if part = 1 then
      match strayCopy title s with
      | some s => (s, .intake)
      | none => (s, .manual)
    else (s, .intake)

/-- The serials on a card. -/
def Card.serials (c : Card) : List CartSerial :=
  match c.body with
  | .cartridge serials => serials
  | .braille _ _ _ _ _ _ => []

/-- An own card (R177 to R180). -/
def ownReturn (c : Card) (s : State) : State × Route :=
  match closeLoan c.tag s with
  | (s, .notFound) => strayReturn c s
  | (s, .notMailed) => (raise (.returnUnread .notMailed) s, .manual)
  | (s, .closed l last) =>
    match l.body with
    | .cartridge _ => (c.serials.foldl chuteEntry s, .intake)
    | .braille _ title _ _ _ _ _ perCopy => if last then bringHome title perCopy s else (s, .intake)

/-- Another station's card (R181). -/
def otherReturn (c : Card) (s : State) : State × Route :=
  match c.body with
  | .cartridge serials =>
    (offerFrame .rti (returnFrame c.tag serials false) (serials.foldl chuteEntry s), .intake)
  | .braille _ _ _ _ _ _ => (offerFrame .rti (returnFrame c.tag [] true) s, .transfer)

/-- A decoded card that is not a repeat is handled and becomes the last card read (R175, R176). -/
def takeCard (c : Card) (s : State) : State :=
  let out := if c.tag.station = own s then ownReturn c s else otherReturn c s
  routeTo out.2 { out.1 with rti := { out.1.rti with lastCard := some (c, out.2) } }

/-- The route recorded for a card identical to the last card read (R176). -/
def repeatRoute (s : State) (c : Card) : Option Route :=
  match s.rti.lastCard with
  | some (c', r) => if c' = c then some r else none
  | none => none

/-- An unreadable card goes to the manual bin (R175). -/
def unreadable (reason : ReturnReason) (s : State) : State := routeTo .manual (raise (.returnUnread reason) s)

/-- The card image is complete: it is decoded and handled (R175, R176). -/
def readFace (face : List Byte) (s : State) : State :=
  match readCard face with
  | .unreadable reason => unreadable reason s
  | .noOwner => unreadable .noOwner s
  | .card c =>
    match repeatRoute s c with
    | some r => routeTo r s
    | none => takeCard c s

/-- The bytes of a card image as the reader's bits spell them, each least significant bit first (R201). -/
def faceOf (bits : List Bool) : List Byte := (packBytes bits).getD []

/-- The image of a return face is complete while the chute is Reading (R174). -/
def cardImageComplete (bits : List Bool) (s : State) : State :=
  if s.rti.chute = .reading then readFace (faceOf bits) s else s

/-- The reader reports a read failure (R174, R175). -/
def chuteFails (s : State) : State := if s.rti.chute = .reading then unreadable .readFailure s else s

/-- The read deadline is reached (R174, R175). -/
def chuteLate (s : State) : State :=
  if s.rti.chute == .reading && s.rti.deadline.any s.reached then unreadable .readFailure s else s

/-- Route done (R174). -/
def routeEnds (s : State) : State :=
  if s.rti.chute = .routing then { s with rti := { s.rti with chute := .idle, deadline := none, route := none } }
  else s

/-- A RETURN's payload passes the tests of R182. -/
def returnPayloadGood (p : List Byte) : Bool :=
  p.length == 2 + 4 * numAt p 0 1 && numAt p 0 1 ≤ 4 && numAt p 1 1 ≤ 1

/-- RETURN heard (R182, R122). -/
def hearReturn (f : Received) (s : State) : State :=
  let tag := tagOf f.subject.toNat
  if tag.station == own s && returnPayloadGood f.payload then
    let serials := (List.range (numAt f.payload 0 1)).map (fun i => BitVec.ofNat 32 (numAt f.payload (2 + 4 * i) 4))
    returnLoan tag (numAt f.payload 1 1 == 1) (serials.foldl (leavePool tag) s)
  else s

/-- ReturnKeyed (R183): `none` when refused. -/
def returnKeyed (tag : LoanTag) (s : State) : Option State :=
  if tag.station != own s then none
  else
    match closeLoan tag s with
    | (s, .closed l last) =>
      match l.body with
      | .cartridge serials => some (serials.foldl chuteEntry s)
      | .braille _ title _ _ _ _ _ perCopy => some (if last then (bringHome title perCopy s).1 else s)
    | (_, .notFound) | (_, .notMailed) => none

end Sys2Proof.Machine
end

