-- ==== Sys2Proof/Machine/Auction.lean ====
section
/-! DEFINITION. The auction unit (chapter 2): admission and pricing of OFFERs, BIDs, window close, takes, and
the double take. -/

namespace Sys2Proof.Machine

/-! ## Admission (R21) -/

/-- The zone lies in the served-zone window (R21). -/
def zoneServed (c : Settings) (zone : Nat) : Bool :=
  match c.zoneMode with
  | .all => true
  | .inside => c.zoneLo ≤ zone && zone ≤ c.zoneHi
  | .outside => zone < c.zoneLo || c.zoneHi < zone

/-- The station may bid on a well-formed OFFER (R21). -/
def mayBid (s : State) (order : OrderSerial) (o : Offer) : Bool :=
  !s.pp.pause && !muted s && zoneServed s.cfl.settings o.zone
    && (auctionOf s order).isNone && (recordOf s order).isNone
    && s.au.entries.length < 16 && s.wq.records.length < 32
    && (offerPlan s o).length ≤ freeSlots s
    && s.shu.holds.length + withoutFreeCopy s o ≤ 128
    && bundleCount (offerPlan s o).length (withFreeCopy s o).length ≤ 8

/-! ## The cost (R26 to R30) -/

/-- Each term, and the sum, saturates at 65534. -/
def term (x : Nat) : Nat := saturate 65534 x

/-- The queue term Q (R26). -/
def queueTerm (s : State) (o : Offer) : Nat :=
  term (ceilDiv (backlog s + paddedSum (nominalG s) (offerPlan s o)) s.cfl.settings.dupRate)

/-- The amount r of an item (R27). -/
def fetchAmount (s : State) (i : Item) : Nat :=
  match entryOf s i.image with
  | some e =>
    match e.state with
    | .present => 0
    | .arriving => (if e.size = 0 then i.amount else e.size) - e.complete
    | .damaged => i.amount
  | none => i.amount

/-- The fetch term F (R27). -/
def fetchTerm (s : State) (o : Offer) : Nat :=
  term (((o.items.filter (fun i => i.kind == .audio)).map
    (fun i => ceilDiv (fetchAmount s i) s.cfl.settings.fetchRate)).sum)

/-- The shortage term P (R28). -/
def shortageTerm (s : State) (o : Offer) : Nat :=
  term (((offerPlan s o).length - availableBlanks s) * s.cfl.settings.shortageCost)

/-- The hold term H (R29). -/
def holdTerm (s : State) (o : Offer) : Nat := term (withoutFreeCopy s o * s.cfl.settings.holdCost)

/-- The lane term M (R29). -/
def laneTerm (s : State) : Nat := if s.mlc.lane.isSome then s.cfl.settings.laneCost else 0

/-- The cost (R30). -/
def bidCost (s : State) (o : Offer) : Nat :=
  term (queueTerm s o + fetchTerm s o + shortageTerm s o + holdTerm s o + laneTerm s)

/-- The indices of the audio items whose image is Present (R32). -/
def imagesOnHand (s : State) (o : Offer) : List Nat :=
  (o.items.zipIdx.filter (fun x => x.1.kind == .audio && (entryOf s x.1.image).any (fun e => e.state == .present))).map
    (·.2)

/-- The flags of the own BID (R32). -/
def bidFlags (s : State) (o : Offer) : BidFlags :=
  { images := bitmap (imagesOnHand s o), copies := bitmap (withFreeCopy s o),
    cartridges := BitVec.ofNat 8 (offerPlan s o).length }

/-! ## OFFER and BID (R20, R22, R33) -/

/-- The entry of an OFFER that passes R20 and R21 (R22). -/
def newEntry (s : State) (order : OrderSerial) (o : Offer) : AuctionEntry :=
  { order := order, offer := o, state := .bidding, cost := bidCost s o, key := keyOf (own s) order,
    flags := bidFlags s o, ownBid := .held, heard := [],
    windowDeadline := s.clock + ms s.cfl.settings.bidWindow, takeDeadline := none, rank := none }

/-- An entry is made, at the lowest-numbered free position (DESIGN CHOICE, log 32), and its BID offered (R22, R32). -/
def makeEntry (order : OrderSerial) (o : Offer) (s : State) : State :=
  let e := newEntry s order o
  let pos := (Table.firstFree 16 s.au.entries).getD 16
  offerFrame .au (bidFrame order e.cost e.key e.flags)
    { s with au := { s.au with entries := Table.put pos e s.au.entries } }

/-- A malformed OFFER is counted (R19, R20). -/
def countMalformed (s : State) : State := { s with au := { s.au with malformed := bump 65535 s.au.malformed } }

/-- OFFER heard (R20 to R22). -/
def hearOffer (f : Received) (s : State) : State :=
  match readOffer f.payload with
  | none => countMalformed s
  | some o => if mayBid s f.subject o then makeEntry f.subject o s else s

/-- The cost and key of a BID or TAKE payload whose cost is in range and whose key is its Source's (R33, R41). -/
def readPrice (f : Received) : Option (Nat × BitVec 4) :=
  let cost := numAt f.payload 0 2
  let key := keyOf f.source f.subject
  if cost ≤ 65534 && numAt f.payload 2 1 == key.toNat then some (cost, key) else none

/-- A well-formed BID (R33). -/
def readBid (f : Received) : Option HeardBid :=
  if f.payload.length != 6 then none
  else
    (readPrice f).map fun p =>
      { station := f.source, cost := p.1, key := p.2,
        flags := { images := byteAt f.payload 3, copies := byteAt f.payload 4, cartridges := byteAt f.payload 5 } }

/-- A BID is recorded: the station's latest stands, in the position of its arrival (R33). -/
def AuctionEntry.hear (b : HeardBid) (e : AuctionEntry) : AuctionEntry :=
  if e.state = .bidding then { e with heard := e.heard.filter (fun h => h.station != b.station) ++ [b] } else e

/-- BID heard, by AU (R33) and ISC (R77). -/
def hearBid (f : Received) (s : State) : State :=
  match readBid f, auctionOf s f.subject with
  | some b, some e =>
    ([0, 1] : List StreamNo).foldl (bidCandidates f.source e.offer b.flags.images)
      (changeAuction f.subject (AuctionEntry.hear b) s)
  | _, _ => s

/-! ## Window close and takes (R34 to R37) -/

/-- Precedence: the lower cost, then the lower key (R31). -/
def goesBefore (a b : Nat × BitVec 4) : Bool := a.1 < b.1 || (a.1 == b.1 && a.2.toNat < b.2.toNat)

/-- The own rank (R34): the heard bids that the own one does not go before, an equal one among them (R31). -/
def ownRank (e : AuctionEntry) : Nat :=
  (e.heard.filter (fun h => !goesBefore (e.cost, e.key) (h.cost, h.key))).length

/-- The entry of an order is freed (R18). -/
def freeAuction (order : OrderSerial) (s : State) : State :=
  { s with au := { s.au with entries := s.au.entries.filter (fun e => e.2.order != order) } }

/-- The station takes an order, or the take is declined (R35). -/
def takeOrder (e : AuctionEntry) (s : State) : State :=
  if acceptsTake s e.offer then
    offerFrame .au (takeFrame e.order 255 e.cost e.key) (freeAuction e.order (acceptTake e s))
  else
    let s := freeAuction e.order s
    { s with au := { s.au with declined := bump 65535 s.au.declined } }

/-- The window closes (R34, R36). The own-BID field of an entry whose BID was discarded or withdrawn here is left as it
stood (DESIGN CHOICE, log 45). -/
def closeWindow (e : AuctionEntry) (s : State) : State :=
  let s := withdrawBid e.order s
  let r := ownRank e
  if r = 0 then takeOrder { e with rank := some 0 } s
  else
    let deadline := s.clock + ms (r * s.cfl.settings.takeWait)
    changeAuction e.order
      (fun e => { e with state := .awaitingTake, rank := some r, takeDeadline := some deadline }) s

/-- The window deadline of an order is reached (R34). -/
def windowReached (order : OrderSerial) (s : State) : State :=
  match auctionOf s order with
  | none => s
  | some e => if e.state == .bidding && s.reached e.windowDeadline then closeWindow e s else s

/-- The take deadline of an order is reached (R37). -/
def takeReached (order : OrderSerial) (s : State) : State :=
  match auctionOf s order with
  | none => s
  | some e => if e.state == .awaitingTake && e.takeDeadline.any s.reached then takeOrder e s else s

/-! ## Drops (R38 to R40) -/

/-- An entry is dropped: a held or queued own BID is withdrawn (R38, R39). -/
def dropAuction (order : OrderSerial) (s : State) : State :=
  match auctionOf s order with
  | none => s
  | some _ => freeAuction order (withdrawBid order s)

/-! ## The double take (R41 to R43) -/

/-- A record that the station took whole and that has no end mark, with its taken precedence. -/
def takenRecordOf (s : State) (order : OrderSerial) : Option (Nat × BitVec 4) :=
  match recordOf s order with
  | some r => if r.takenWhole && r.endMark == .none then r.precedence else none
  | none => none

/-- A whole-order TAKE of another station is compared with the taken precedence (R41, R42). -/
def compareTake (f : Received) (s : State) : State :=
  match takenRecordOf s f.subject, readPrice f with
  | some own, some other =>
    if goesBefore own other then offerFrame .au (takeFrame f.subject 255 own.1 own.2) s
    else abandonOrder f.subject s
  | _, _ => s

/-- TAKE heard (R38, R41, R141); one of another length than 3 is ignored (log 10). -/
def hearTake (f : Received) (s : State) : State :=
  if f.payload.length != 3 then s
  else if detailByte f 0 = 255 then compareTake f (dropAuction f.subject s)
  else if detailByte f 0 ≤ 7 then holdTakenElsewhere f.subject (detailByte f 0) s
  else s

/-- The outcome of a CLOSED whose length matches its tag count (R200). One with a tag count above 16, which R200's table
does not have, is ignored as one of a wrong length is (DESIGN CHOICE, log 68). -/
def readClosed (f : Received) : Option Outcome :=
  if numAt f.payload 1 1 ≤ 16 && f.payload.length == 2 + 3 * numAt f.payload 1 1 then outcomeOf (numAt f.payload 0 1)
  else none

/-- A whole-order CLOSED of another station drops the order's auction entry (R38) and abandons a record taken whole
(R43). On one with outcome WrittenOff, the late end of loans and not of the order's filling, AU does not act at all (R43,
R156; DEDUCED against R38's "whatever its outcome", log 11). -/
def closeOrder (order : OrderSerial) (o : Outcome) (s : State) : State :=
  match o with
  | .writtenOff => s
  | .mailed | .held | .lapsed | .cancelled | .failed =>
    let s := dropAuction order s
    if (takenRecordOf s order).isSome then abandonOrder order s else s

/-- CLOSED heard (R38, R43, R141). -/
def hearClosed (f : Received) (s : State) : State :=
  match readClosed f with
  | none => s
  | some o =>
    if detailByte f 0 = 255 then closeOrder f.subject o s
    else if detailByte f 0 ≤ 7 then holdTakenElsewhere f.subject (detailByte f 0) s
    else s

/-- CANCEL heard (R39, R67). -/
def hearCancel (f : Received) (s : State) : State := cancelOrder f.subject (dropAuction f.subject s)

end Sys2Proof.Machine
end

