-- ==== Sys2Proof/Machine/FloorLine.lean ====
section
/-! DEFINITION. The floor line interface (chapter 1): frame ends, the receive filter, muting, turns, joining and
the sending of frames. -/

namespace Sys2Proof.Machine

/-! ## Muting (R7) -/

/-- FLI enters Muted (R7): NumberClash, an empty queue, no auction entries (R40), no fetch and no serve stream
(R83, R85), and no held frame anywhere. -/
def mute (s : State) : State :=
  let s := { s with fli := { s.fli with txState := .muted, queue := [], sending := none, withdrawHead := false,
                                        lineOut := [] } }
  let s := raise .numberClash s
  let s := muteStore { s with au := { s.au with entries := [], held := [] } }
  { s with wq := { s.wq with held := [], early := [] }, shu := { s.shu with held := [] }, lu := { s.lu with held := [] },
           rti := { s.rti with held := [] } }

/-- A good frame with the own Source that the station did not send (R7): heard while Muted it does nothing. -/
def clash (s : State) : State := if muted s then s else fullStage (mute s)

/-! ## Receiving (R5, R6) -/

/-- The blocks that receive a kind act on the frame (kind table, R6). -/
def deliver (k : Kind) (f : Received) (s : State) : State :=
  match k with
  | .offer => hearOffer f s
  | .cancel => hearCancel f s
  | .day => hearDay f s
  | .bid => hearBid f s
  | .take => hearTake f s
  | .closed => hearClosed f s
  | .ret => hearReturn f s
  | .available => hearAvailable f s
  | .handover => hearHandover f s
  | .refuse => hearRefuse f s
  | .fetch => hearFetch f s
  | .info => hearInfo f s
  | .image => hearImage f s

/-- The kinds that only the desk station sends (R5 test 4). -/
def Kind.fromDesk : Kind → Bool
  | .offer | .cancel | .day => true
  | _ => false

/-- What the receive filter decides on a good frame (R5): the kind as which it is delivered. -/
def filtered (s : State) (f : Received) : Option Kind :=
  if f.source = own s then none
  else if f.dest != (own s).toNat && f.dest != 255 then none
  else
    match kindOf f.kind with
    | none => none
    | some k => if k.fromDesk && f.source != 0 then none else some k

/-- The turn rotation restarts at a frame end (R8), and joining is over (R14); `line` is what the end leaves on the
line, the closing flag or idle (R1). -/
def restartTurns (line : LineLevel) (last : Station) (s : State) : State :=
  { s with fli := { s.fli with
      lastSender := some last
      slotZero := some (s.clock + us 4)
      line := line
      lineOut := []
      joinFrom := none
      ownEndDue := false
      txState := if s.fli.txState = .joining then .active else s.fli.txState } }

/-- A good frame at its end: a clash, a dropped frame, or a delivery (R5 to R7). -/
def goodFrame (f : Received) (ownEnd : Bool) (s : State) : State :=
  if f.source = own s then (if ownEnd then s else clash s)
  else
    match filtered s f with
    | none => s
    | some k => fullStage (deliver k f s)

/-! ## The line between frames (R1, R9, R14) -/

/-- What the receiver sees outside a frame end (R1), once FLI has started (log 13). Any bit other than idle stops the
quiet measurement of joining (R14), the content of a frame the slot count (R9); a flag alone does not (log 30). Bits
that follow no flag are no frame, and keep the line from being quiet until it is idle again (log 57). -/
def lineSeen (sight : LineSight) (s : State) : State :=
  if s.cfl.phase = .blocks then s
  else
    match sight, s.fli.line with
    | .flag, .idle | .flag, .closed | .flag, .stray => { s with fli := { s.fli with line := .flagged, joinFrom := none } }
    | .content, .flagged | .content, .closed =>
      { s with fli := { s.fli with line := .content, slotZero := none, joinFrom := none } }
    | .content, .idle => { s with fli := { s.fli with line := .stray, joinFrom := none } }
    | .quiet, .flagged | .quiet, .closed | .quiet, .stray => { s with fli := { s.fli with line := .idle } }
    | _, _ => s

/-- A frame end after content (R8): the rotation restarts, with 15 after a bad frame. -/
def contentEnds (bits : List Bool) (line : LineLevel) (s : State) : State :=
  match receive bits with
  | none => restartTurns line 15 s
  | some f => goodFrame f s.fli.ownEndDue (restartTurns line f.source s)

/-- A frame end (R1, R8): a flag or seven ones with no content before them end no frame. Before FLI has started (R199
phase 5) nothing is heard (log 13). -/
def frameEnds (bits : List Bool) (s : State) : State :=
  if s.cfl.phase = .blocks then s
  else
    match splitEnding bits with
    | ([], .closed) => lineSeen .flag s
    | ([], .aborted) => lineSeen .quiet s
    | (_, .closed) => contentEnds bits .closed s
    | (_, .aborted) => contentEnds bits .idle s

/-- The line has been quiet for 512 µs while Joining (R14). -/
def joinedQuiet (s : State) : State :=
  match s.fli.joinFrom with
  | none => s
  | some j =>
    if s.fli.txState == .joining && s.cfl.phase == .running && s.reached (j + us 512) then
      { s with fli := { s.fli with txState := .active, lastSender := some 15, slotZero := some (j + us 512),
                                   joinFrom := none } }
    else s

/-! ## Turns (R9 to R11) -/

/-- A slot of the station's own begins at this moment (R8, R9). The station acts at the first moment of the slot, within
the first microsecond that R10 allows, and at no other (DESIGN CHOICE, log 44). -/
def ownSlotBegins (s : State) : Bool :=
  match s.fli.slotZero, s.fli.lastSender with
  | some z, some l =>
    z ≤ s.clock && (s.clock - z) % us 2 == 0
      && ((s.clock - z) / us 2) % 16 == (own s - l - 1).toNat
  | _, _ => false

/-- FLI may begin a frame (R10). -/
def mayBegin (s : State) : Bool :=
  s.fli.txState == .active && s.fli.line.quiet && s.fli.sending.isNone && ownSlotBegins s

/-- The serve stream whose IMAGE frame goes next, if any is ready (R11). -/
def nextImage (s : State) : Option StreamNo :=
  match serveReady s 0, serveReady s 1 with
  | true, true => some s.fli.alternation
  | true, false => some 0
  | false, true => some 1
  | false, false => none

/-- The station begins a frame: the slot count stops and the line is its own (R9, R10). -/
def beginFrame (what : Sending) (f : Frame) (s : State) : State :=
  { s with fli := { s.fli with sending := some what, ownEndDue := true, line := .content, slotZero := none,
                               lineOut := lineBits (own s) f } }

/-- An own slot begins (R10, R11). -/
def turnComes (s : State) : State :=
  if mayBegin s then
    match s.fli.queue with
    | f :: _ => beginFrame .control f s
    | [] =>
      match nextImage s with
      | none => s
      | some x =>
        match serveOf s x with
        | none => s
        | some v => beginFrame (.image x) (serveFrame v) (setServe x (some { v with onLine := true }) s)
  else s

/-! ## Collision and completion (R12, R13, R16) -/

/-- A serve stream's frame is no longer on the line and stays its next frame (R12). -/
def takeOffLine (x : StreamNo) (s : State) : State :=
  match serveOf s x with
  | none => s
  | some v => setServe x (some { v with onLine := false }) s

/-- A readback mismatch in the header (R12); a head whose BID was withdrawn is removed (R16). -/
def collide (s : State) : State :=
  match s.fli.sending with
  | none => s
  | some what =>
    let s := { s with fli := { s.fli with sending := none, ownEndDue := false, lineOut := abortBits,
                                          collisions := bump 65535 s.fli.collisions } }
    match what with
    | .image x => takeOffLine x s
    | .control =>
      if s.fli.withdrawHead then
        entryFreed { s with fli := { s.fli with queue := s.fli.queue.tail, withdrawHead := false } }
      else s

/-- What the producing block notes when its control frame has completed: the own BID is sent (R32), a FETCH starts
its silence timer (R78), an INFO lets its serve stream send (R85). -/
def noteCompleted (f : Frame) (s : State) : State :=
  match f.kind with
  | .bid => changeAuction f.subject (fun e => { e with ownBid := .sent }) s
  | .fetch => ([0, 1] : List StreamNo).foldl (fetchCompleted f) s
  | .info => ([0, 1] : List StreamNo).foldl (infoCompleted f) s
  | _ => s

/-- The closing flag of an own frame has been sent (R13). -/
def completeFrame (s : State) : State :=
  match s.fli.sending with
  | none => s
  | some .control =>
    match s.fli.queue with
    | [] => s
    | f :: rest =>
      entryFreed (noteCompleted f
        { s with fli := { s.fli with sending := none, lineOut := [], withdrawHead := false, queue := rest } })
  | some (.image x) =>
    rackStage (settleStore (serveAdvance x
      { s with fli := { s.fli with sending := none, lineOut := [], alternation := otherStream x } }))

end Sys2Proof.Machine
end

