-- ==== Sys2Proof/Machine/Window.lean ====
section
/-! DEFINITION. The record window (R186, R187, R202): how each record of the fourteen tables reads. R202 fixes the
order of the fields, the state codes and the record lengths; the byte widths of the fields, and what stands behind
the last one, are the model's (DESIGN CHOICE, log 15). -/

namespace Sys2Proof.Machine

/-! ## Field codes: a state is numbered from 1 in its chapter's order, an absent field reads 0 (R202); which numbers that
may be absent are shown plus one, and which bare, is log 15 -/

def byte (n : Nat) : List Byte := bytesLE 1 n
def word (n : Nat) : List Byte := bytesLE 2 n
def quad (n : Nat) : List Byte := bytesLE 4 n
def flag (b : Bool) : List Byte := bytesLE 1 b.toNat
def tagBytes (t : Option LoanTag) : List Byte := bytesLE 3 (t.elim 0 tagCode)
def momentBytes (m : Option Moment) : List Byte := quad (m.elim 0 (fun m => (Config.windowMoment m).toNat))

/-- `n` bytes: those given, then zeros. -/
def zeroTo (n : Nat) (bs : List Byte) : List Byte := bs.take n ++ List.replicate (n - bs.length) 0

/-- The transmit state, in the order of the list of chapter 1 (DESIGN CHOICE, log 66). -/
def TxState.code : TxState → Nat
  | .joining => 1 | .active => 2 | .muted => 3
/-- The route of the last card read, in the order of the list of chapter 10 (DESIGN CHOICE, log 66). -/
def Route.code : Route → Nat
  | .intake => 1 | .transfer => 2 | .manual => 3
/-- The auction states, in the order of the columns of chapter 2's table of states. -/
def AuctionState.code : AuctionState → Nat
  | .bidding => 1 | .awaitingTake => 2
/-- Where the own BID stands, in the order in which R18 names the places (DESIGN CHOICE, log 66). -/
def OwnBid.code : OwnBid → Nat
  | .held => 1 | .queued => 2 | .sent => 3
def ItemState.code : ItemState → Nat
  | .planned => 1 | .held => 2 | .failed => 3 | .mailed => 4 | .cancelled => 5
/-- The codes of the bundle states, in the order of a bundle's life (DESIGN CHOICE, log 66). -/
def BundleState.code : BundleState → Nat
  | .waiting => 1 | .producing => 2 | .written => 3 | .packing => 4 | .laned => 5 | .mailed => 6
/-- The end mark of a work record, none being 0 (DESIGN CHOICE, log 66). -/
def EndMark.code : EndMark → Nat
  | .none => 0 | .cancelled => 1 | .abandoned => 2
def Condition.code : Condition → Nat
  | .unassigned => 1 | .linked => 2 | .written => 3
def ImageState.code : ImageState → Nat
  | .arriving => 1 | .present => 2 | .damaged => 3
def SocketState.code : SocketState → Nat
  | .identifying => 2 | .holding => 3 | .busy => 4 | .refused => 5
def CartState.code : CartState → Nat
  | .ready => 1 | .blank => 2 | .assigned => 3 | .writing => 4 | .verifying => 5 | .written => 6 | .packed => 7
  | .out => 8 | .returned => 9 | .dirty => 10 | .erasing => 11 | .missing => 12 | .faulted => 13 | .retired => 14
def LoanState.code : LoanState → Nat
  | .carded => 1 | .out => 2 | .overdue => 3 | .inTransfer => 4
/-- The bin states, in the order of R169's list (DESIGN CHOICE, log 66). -/
def BinState.code : BinState → Nat
  | .open => 1 | .full => 2 | .disabled => 3
/-- The card states of the lane order, in the order of R163 (DESIGN CHOICE, log 66). -/
def CardState.code : CardState → Nat
  | .writing => 1 | .done => 2 | .fault => 3
def RuleField.code : RuleField → Nat
  | .zone => 0 | .kind => 1 | .weight => 2 | .urgency => 3
def RuleTest.code : RuleTest → Nat
  | .equal => 0 | .notEqual => 1 | .less => 2 | .greaterOrEqual => 3 | .inside => 4 | .outside => 5

/-! ## The records -/

/-- Table 1: the station. -/
def stationRecord (s : State) : List Byte :=
  byte (own s).toNat ++ byte s.fli.txState.code ++ flag s.pp.pause ++ word s.fli.collisions
    ++ byte s.fli.queue.length
    ++ zeroTo 24 (s.rti.lastCard.elim [] (fun c => returnFace c.1 ++ byte c.2.code))

def flagBytes (f : BidFlags) : List Byte := [f.images, f.copies, f.cartridges]

/-- Table 2: an auction entry (R18). -/
def auctionRecord (e : AuctionEntry) : List Byte :=
  quad e.order.toNat ++ zeroTo 64 (offerBytes e.offer) ++ byte e.state.code ++ word e.cost ++ byte e.key.toNat
    ++ flagBytes e.flags ++ byte e.ownBid.code
    ++ zeroTo 105 (e.heard.flatMap
        (fun h => byte h.station.toNat ++ word h.cost ++ byte h.key.toNat ++ flagBytes h.flags))
    ++ momentBytes (some e.windowDeadline) ++ momentBytes e.takeDeadline ++ byte (e.rank.getD 0)

/-- The item place of an index in a work record (R47): nine bytes, zeros where the record has no such item. -/
def itemPlace (r : WorkRecord) (i : Nat) : List Byte :=
  zeroTo 9 ((r.item? i).elim []
    (fun x => byte x.kind.code ++ bytesLE 3 x.title.toNat ++ byte x.version.toNat ++ word x.amount
      ++ byte x.state.code ++ flag x.holdServed))

/-- The bundle place of a number (R52): the slots of its planned cartridges (plus one), its riding items as a bitmap, and
its state. The bitmap of the confirmed picks (R159) between the two is a field that R47 and R52 do not list (DESIGN CHOICE,
log 15). -/
def bundlePlace (s : State) (r : WorkRecord) (n : Nat) : List Byte :=
  zeroTo 8 ((r.bundle? n).elim []
    (fun b => byte b.number ++ zeroTo 4 ((bundleCarts s r.order n).flatMap (fun e => byte (e.1 + 1)))
      ++ [bitmap (b.riders.map (·.item))]
      ++ [bitmap ((b.riders.filter (fun x => x.pick == some .picked)).map (·.item))] ++ byte b.state.code))

/-- Table 3: a work record (R47), 1 in its state byte (log 67). -/
def workRecord (s : State) (r : WorkRecord) : List Byte :=
  byte 1 ++ quad r.order.toNat ++ quad r.patron.toNat ++ word r.zone ++ byte r.urgency.code ++ flag r.takenWhole
    ++ (r.precedence.elim [0, 0, 0] (fun p => word p.1 ++ byte p.2.toNat))
    ++ zeroTo 30 (r.sources.flatMap (fun x => byte x.1.toNat ++ [x.2]))
    ++ (List.range 8).flatMap (itemPlace r) ++ (List.range 8).flatMap (fun n => bundlePlace s r (n + 1))
    ++ byte r.holdCount ++ byte r.endMark.code ++ byte r.gateCount
    ++ zeroTo 64 (r.mailedTags.flatMap (fun t => tagBytes (some t.1) ++ [bitmap t.2]))

/-- Table 4: a planned cartridge (R49) with its load-asked mark, its condition in its state byte (log 67). -/
def planRecord (pc : PlannedCart) : List Byte :=
  byte (conditionOf pc).code ++ quad pc.order.toNat ++ byte pc.bundle ++ byte pc.position
    ++ zeroTo 64 (pc.placements.flatMap
        (fun p => byte p.item ++ byte p.part ++ word p.imageStart ++ word p.length ++ word p.cartStart))
    ++ quad (pc.link.elim 0 (·.toNat)) ++ flag pc.loadAsked

/-- Table 5: a hold (R133), Waiting being 1 and Offered 2 (DESIGN CHOICE, log 66). -/
def holdRecord (h : Hold) : List Byte :=
  quad h.order.toNat ++ byte h.item ++ bytesLE 3 h.title.toNat ++ byte h.version.toNat ++ byte h.volumes
    ++ quad h.patron.toNat ++ word h.zone ++ byte h.urgency.code ++ word (h.placed.getD 0) ++ quad h.seq
    ++ byte (if h.offered.isSome then 2 else 1) ++ byte (h.offered.elim 0 (·.1.toNat))
    ++ momentBytes (h.offered.map (·.2)) ++ flag h.setAside

/-- Table 6, record 0: the pool summary (R126). -/
def poolSummary (s : State) : List Byte :=
  ([.ready, .blank, .assigned, .writing, .verifying, .written, .packed, .out, .returned, .dirty, .erasing,
    .missing, .faulted, .retired] : List CartState).flatMap (fun st => word (countState s st))
    ++ word (512 - s.cp.records.length) ++ word (availableBlanks s) ++ quad s.cp.stamp

/-- Table 6: a cartridge record (R114). Its socket and its link read as their bare numbers, so that socket 0 and slot 0
read as none does (DESIGN CHOICE, log 15). -/
def cartRecord (r : CartRecord) : List Byte :=
  quad r.serial.toNat ++ byte r.capClass ++ byte r.e ++ word r.wear ++ byte r.state.code
    ++ byte (r.socket.elim 0 (·.val)) ++ byte (r.link.getD 0) ++ tagBytes r.tag ++ quad r.stamp

/-- Table 7: a shelf entry (R128), 1 in its state byte (log 67). -/
def shelfRecord (e : ShelfEntry) : List Byte :=
  byte 1 ++ bytesLE 3 e.title.toNat ++ byte e.perCopy ++ byte e.owned ++ byte e.onShelf ++ byte e.reserved
    ++ flag e.mark

/-- The number of loans in a state (R157). -/
def countLoans (s : State) (st : LoanState) : Nat := (s.lu.loans.filter (fun e => e.2.state == st)).length

/-- Table 8, record 0: the loan summary (R157). -/
def loanSummary (s : State) : List Byte :=
  ([.carded, .out, .overdue, .inTransfer] : List LoanState).flatMap (fun st => word (countLoans s st))
    ++ word (2048 - s.lu.loans.length) ++ bytesLE 3 s.lu.nextSerial.toNat ++ word s.lu.day ++ flag s.lu.dayKnown
    ++ word s.lu.writeOffs

/-- The contents of a loan (R145): the fields of its kind, those of a braille loan in the place of the serials. A count of
the serials, no field of R145, goes before them (DESIGN CHOICE, log 15). -/
def loanContents : LoanBody → List Byte
  | .cartridge serials => byte serials.length ++ serials.flatMap (fun (c : CartSerial) => quad c.toNat)
  | .braille _ title set part parts first last perCopy =>
    bytesLE 3 title.toNat ++ tagBytes (some set) ++ byte part ++ byte parts ++ byte first ++ byte last ++ byte perCopy

/-- The item index of a braille loan (R145). -/
def LoanBody.item : LoanBody → Nat
  | .cartridge _ => 0
  | .braille item _ _ _ _ _ _ _ => item

/-- Table 8: a loan (R145). The fields of both kinds one after another need more than the 40 bytes of R202, so the contents
take one place of 17 bytes, whichever the kind (DESIGN CHOICE, log 15). -/
def loanRecord (l : Loan) : List Byte :=
  tagBytes (some l.tag) ++ quad l.order.toNat ++ quad l.patron.toNat ++ word l.zone ++ byte l.body.item
    ++ byte l.card.body.code ++ zeroTo 17 (loanContents l.body) ++ word l.carded ++ word l.due ++ byte l.state.code

/-- Table 9, record 0: the counts of ISC. -/
def directorySummary (s : State) : List Byte :=
  word s.isc.guardDiscards ++ word (freeChunks s) ++ quad s.isc.useCounter

/-- Table 9: a directory entry (R72); its first chunk reads as its bare number, so that chunk 0 reads as none does
(DESIGN CHOICE, log 15). -/
def directoryRecord (s : State) (e : DirEntry) : List Byte :=
  bytesLE 3 e.name.title.toNat ++ byte e.name.version.toNat ++ word e.size ++ word (e.head.getD 0)
    ++ byte e.state.code ++ word (pinCount s e.name) ++ quad e.useStamp ++ word e.complete
    ++ byte (e.source.elim 0 (·.toNat)) ++ byte e.fails

/-- Table 10: a chunk (R70): owner and next, each plus one. -/
def chunkRecord (c : ChunkLink) : List Byte := word (c.owner + 1) ++ word (c.next.elim 0 (· + 1))

/-- The operation of a socket and its position (R91): no operation 0, write 1, verify 2, erase 3 (DESIGN CHOICE,
log 66). The position reads 0 while no sector of a placement and no group is worked on (DESIGN CHOICE, log 80). -/
def opBytes : Option Op → List Byte
  | none => [0, 0, 0, 0]
  | some .headerWrite => [1, 0, 0, 0]
  | some (.sectorWrite p j) => byte 1 ++ byte p ++ word j
  | some .directoryWrite => [1, 0, 0, 0]
  | some (.verifySector p j) => byte 2 ++ byte p ++ word j
  | some .verifyDirectory => [2, 0, 0, 0]
  | some (.erase _ g) => byte 3 ++ byte 0 ++ word g
  | some (.eraseHeader _) => [3, 0, 0, 0]

/-- Table 11: an occupied socket (R91). -/
def socketRecord (e : SocketEntry) : List Byte :=
  byte e.state.code ++ zeroTo 11 (e.header.elim [] headerBytes) ++ opBytes e.op ++ byte e.attempt
    ++ momentBytes e.deadline

/-- The writer's state and tag: Idle 1, Writing 2, Fault 3 (DESIGN CHOICE, log 66). -/
def writerBytes : Writer → List Byte
  | .idle => byte 1 ++ tagBytes none
  | .writing t _ => byte 2 ++ tagBytes (some t)
  | .fault t => byte 3 ++ tagBytes (some t)

/-- The gate states, in the order of R165 (DESIGN CHOICE, log 66). -/
def Gate.code : Gate → Nat
  | .empty => 1
  | .diverting _ _ => 2
  | .holding _ _ => 3

/-- Table 12, record 0: the lane, Running being 1 and Blocked 2 (DESIGN CHOICE, log 66). -/
def laneRecord (s : State) : List Byte :=
  byte (if s.mlc.lane.isSome then 2 else 1) ++ byte (s.mlc.lane.elim 0 BlockReason.code) ++ writerBytes s.mlc.writer
    ++ byte s.mlc.gate.code
    ++ zeroTo 24 (s.mlc.laneOrder.flatMap (fun l => tagBytes (some l.tag) ++ byte l.card.code))
    ++ word s.mlc.sackNo ++ byte s.mlc.writePos ++ byte s.cfl.settings.defaultBin ++ byte s.cfl.settings.overflowBin

/-- Table 12: a bin (R169). -/
def binRecord (b : Bin) : List Byte :=
  byte b.state.code ++ byte b.capacity ++ byte b.count ++ tagBytes b.first ++ tagBytes b.last

/-- Table 13: a sort rule (R166), 1 in its state byte (log 67). -/
def ruleRecord (r : SortRule) : List Byte :=
  byte 1 ++ byte r.field.code ++ byte r.test.code ++ word r.lo ++ word r.hi ++ byte r.bin

/-- Table 14: a manifest record (R170), 1 in its state byte (log 67). -/
def manifestRecord (m : ManifestRec) : List Byte :=
  byte 1 ++ word m.sack ++ byte m.bin ++ byte m.count ++ tagBytes m.first ++ tagBytes m.last ++ word m.day
    ++ flag m.dayKnown

/-- The manifest records oldest first (R172). -/
def manifestOrder (s : State) : List ManifestRec :=
  ((List.range 64).filterMap (fun i => s.mlc.manifest.at? ((s.mlc.writePos + i) % 64)))

/-! ## Tables -/

/-- The record count of a table (R186). -/
def recordCount (s : State) (table : Nat) : Nat :=
  match table with
  | 1 => 1 | 2 => 17 | 3 => 32 | 4 => 128 | 5 => 128 | 6 => 513 | 7 => 1024 | 8 => 2049 | 9 => 513
  | 10 => s.cfl.settings.storeChunks | 11 => 8 | 12 => 13 | 13 => 16 | 14 => 64 | _ => 0

/-- The record length of a table (R202). -/
def recordLength (table : Nat) : Nat :=
  match table with
  | 1 => 32 | 2 => 208 | 3 => 256 | 4 => 112 | 5 => 32 | 6 => 36 | 7 => 16 | 8 => 40 | 9 => 24 | 10 => 4
  | 11 => 24 | 12 => 40 | 13 => 8 | 14 => 16 | _ => 0

/-- The fields of a record; a free position has none and reads as Free. -/
def recordFields (s : State) (table index : Nat) : List Byte :=
  match table with
  | 1 => stationRecord s
  | 2 => if index = 0 then word s.au.malformed ++ word s.au.declined
         else (s.au.entries.at? (index - 1)).elim [] auctionRecord
  | 3 => (s.wq.records[index]?).elim [] (workRecord s)
  | 4 => (s.wq.plan.at? index).elim [] planRecord
  | 5 => (s.shu.holds[index]?).elim [] holdRecord
  | 6 => if index = 0 then poolSummary s else (s.cp.records.at? (index - 1)).elim [] cartRecord
  | 7 => (s.shu.shelf.at? index).elim [] shelfRecord
  | 8 => if index = 0 then loanSummary s else (s.lu.loans.at? (index - 1)).elim [] loanRecord
  | 9 => if index = 0 then directorySummary s
         else (s.isc.directory.at? (index - 1)).elim [] (directoryRecord s)
  | 10 => (s.isc.chains.at? index).elim [] chunkRecord
  | 11 => (s.de.sockets.at? index).elim (byte 1 ++ List.replicate 20 0) socketRecord
  | 12 => if index = 0 then laneRecord s else (s.mlc.bins[index - 1]?).elim [] binRecord
  | 13 => (s.cfl.settings.rules[index]?).elim [] ruleRecord
  | 14 => ((manifestOrder s)[index]?).elim [] manifestRecord
  | _ => []

/-- The bytes of a free record: it reads as Free, and its absent fields as 0. -/
def freeRecord (table : Nat) : List Byte := List.replicate (recordLength table) 0

/-- A record as the window copies it (R187): its fields, then bytes the spec does not give (log 15). -/
def windowRecord (s : State) (table index : Nat) : List Byte :=
  let fields := recordFields s table index
  if fields.isEmpty then freeRecord table
  else
    fields.take (recordLength table)
      ++ (List.range (recordLength table - fields.length)).map
          (fun i => Config.windowPad table (fields.length + i))

end Sys2Proof.Machine
end

