-- ==== Sys2Proof/Machine/Panel.lean ====
section
/-! DEFINITION. The panel port (chapter 11): the pointer, the data/event location, the latches, taking a command and
the status byte. -/

namespace Sys2Proof.Machine

/-! ## The pointer and the data/event location (R186, R187, R189) -/

/-- The number in two latches, least significant first. -/
def pair (lo hi : Byte) : Nat := lo.toNat + 256 * hi.toNat

/-- A write of the pointer location (R186). -/
def writePointer (table : Byte) (s : State) : State :=
  let index := pair s.pp.arg0 s.pp.arg1
  let offset := pair s.pp.arg2 s.pp.arg3
  let p : Pointer :=
    { table := table
      index := if index < recordCount s table.toNat then index else 0
      offset := if offset < recordLength table.toNat then offset else 0 }
  { s with pp := { s.pp with pointer := p, buffer := { s.pp.buffer with stale := true } } }

/-- The fetch of the event view (R189). -/
def fetchEvent (s : State) : State :=
  let head := (s.pp.events.head?).elim [] Event.bytes
  let o := s.pp.pointer.offset
  if o = 0 && s.pp.events.isEmpty then { s with pp := { s.pp with prefetch := 0 } }
  else
    let s' := { s with pp := { s.pp with
      prefetch := byteAt head o, pointer := { s.pp.pointer with offset := if o < 3 then o + 1 else 0 } } }
    if o < 3 then s' else popEvent s'

/-- The buffer holds the record that the pointer names, as copied at its first fetch (R187). -/
def bufferFor (s : State) : RecordBuffer :=
  let p := s.pp.pointer
  let b := s.pp.buffer
  if b.stale || b.table != p.table || b.index != p.index then
    { table := p.table, index := p.index, bytes := windowRecord s p.table.toNat p.index, stale := false }
  else b

/-- The pointer after one byte (R187): the next byte, the next record, or the first record of the table. -/
def nextPointer (s : State) (p : Pointer) : Pointer :=
  if p.offset + 1 < recordLength p.table.toNat then { p with offset := p.offset + 1 }
  else if p.index + 1 < recordCount s p.table.toNat then { p with offset := 0, index := p.index + 1 }
  else { p with offset := 0, index := 0 }

/-- The fetch of the record window (R187). -/
def fetchRecord (s : State) : State :=
  let b := bufferFor s
  { s with pp := { s.pp with buffer := b, prefetch := byteAt b.bytes s.pp.pointer.offset,
                             pointer := nextPointer s s.pp.pointer } }

/-- A fetch, by the table that the pointer names; 15..255 name none (R187). -/
def fetchNext (s : State) : State :=
  if s.pp.pointer.table.toNat = 0 then fetchEvent s
  else if s.pp.pointer.table.toNat ≤ 14 then fetchRecord s
  else { s with pp := { s.pp with prefetch := 0 } }

/-- A read of the data/event location returns the prefetch byte and then fetches (R185, R187). -/
def readData (s : State) : State := fetchNext { s with pp := { s.pp with dataOut := s.pp.prefetch } }

/-! ## The other locations (R185) -/

/-- A write of a location other than command and pointer (R185). -/
def writeLatch (place : LatchPlace) (b : Byte) (s : State) : State :=
  match place with
  | .status | .data => s
  | .argument 0 => { s with pp := { s.pp with arg0 := b } }
  | .argument 1 => { s with pp := { s.pp with arg1 := b } }
  | .argument 2 => { s with pp := { s.pp with arg2 := b } }
  | .argument 3 => { s with pp := { s.pp with arg3 := b } }

def CommandOutcome.code : CommandOutcome → Nat
  | .none => 0 | .accepted => 1 | .refused => 2

/-- The status byte as it stands (R185, R202). -/
def statusByte (s : State) : Byte :=
  BitVec.ofNat 8 ((pint s).toNat + 2 * s.pp.eventsLost.toNat + 4 * (s.pp.slot != .idle).toNat
    + 8 * s.pp.outcome.code + 32 * s.pp.refusedWrite.toNat + 64 * s.pp.pause.toNat + 128 * (muted s).toNat)

/-- What a read of location 0..7 returns (R185, R202); a data/event read also fetches (`readData`). -/
def panelRead (s : State) (location : Fin 8) : Byte :=
  match location with
  | 0 => statusByte s
  | 1 => s.pp.command
  | 2 => s.pp.arg0
  | 3 => s.pp.arg1
  | 4 => s.pp.arg2
  | 5 => s.pp.arg3
  | 6 => s.pp.pointer.table
  | 7 => s.pp.prefetch

/-! ## Commands (R190, R191) -/

/-- The command byte: the code in the low four bits, the small argument in the high four (R190). -/
def commandByte (code : BitVec 4) (high : BitVec 4) : Byte := high ++ code

/-- The command code in a command byte (R190). -/
def codeOf (b : Byte) : BitVec 4 := b.extractLsb' 0 4

/-- The small argument in a command byte (R190). -/
def highOf (b : Byte) : BitVec 4 := b.extractLsb' 4 4

/-- The codes that name no command (R202). -/
def unknownCode : UnknownCode → BitVec 4
  | .c0 => 0 | .c11 => 11 | .c12 => 12 | .c13 => 13 | .c14 => 14 | .c15 => 15

/-- The code names one of the ten commands (R191, R202). -/
def namesCommand (code : BitVec 4) : Bool := 1 ≤ code.toNat && code.toNat ≤ 10

/-! ### Taking a command (R190) -/

/-- The command location takes no write: a command executes (R190), or phase 4 of a start has not ended (R199). -/
def commandClosed (s : State) : Bool := s.cfl.phase == .blocks || s.pp.slot != .idle

/-- A write of the command location that is ignored (R190, R199): the command byte keeps the value written. -/
def ignoreCommand (b : Byte) (s : State) : State :=
  { s with pp := { s.pp with command := b, refusedWrite := true } }

/-- What a write of the byte takes: it, and the argument bytes as they stand (R190). -/
def takenBy (b : Byte) (s : State) : TakenCommand :=
  { byte := b, arg0 := s.pp.arg0, arg1 := s.pp.arg1, arg2 := s.pp.arg2, arg3 := s.pp.arg3 }

/-- The slot becomes Executing with the command (R190). -/
def startCommand (b : Byte) (s : State) : State :=
  { s with pp := { s.pp with
      command := b, refusedWrite := false, outcome := .none, slot := .executing (takenBy b s) } }

/-- The outcome is posted and the slot is Idle again (R190). -/
def endCommand (o : CommandOutcome) (s : State) : State :=
  { s with pp := { s.pp with outcome := o, slot := .idle } }

/-- A write of the command location (R190): ignored while the location is closed; else the command is taken, and the
slot stands Executing until the command's block acts (`actOn`). A code that names no command ends at once, refused; a
command whose item index or bin is out of range is taken as any other, and refused when its act comes, without reaching
its block (R191; DESIGN CHOICE for the moment, log 14). -/
def takeCommand (b : Byte) (s : State) : State :=
  if commandClosed s then ignoreCommand b s
  else if namesCommand (codeOf b) then startCommand b s
  else endCommand .refused (startCommand b s)

/-! ### The acts of the blocks (R191, R192) -/

/-- The order serial in argument bytes 0..3 (R191). -/
def argOrder (w : TakenCommand) : OrderSerial := BitVec.ofNat 32 (natLE [w.arg0, w.arg1, w.arg2, w.arg3])

/-- The title in argument bytes 0..2 (R191). -/
def argTitle (w : TakenCommand) : Title := BitVec.ofNat 24 (natLE [w.arg0, w.arg1, w.arg2])

/-- The loan tag in argument bytes 0..2 (R191). -/
def argTag (w : TakenCommand) : LoanTag := tagOf (natLE [w.arg0, w.arg1, w.arg2])

/-- PickDone (R191, R159): an item index above 7 does not reach MLC; the refusal comes in place of its act (log 14). -/
def actPickDone (w : TakenCommand) (s : State) : Option State :=
  if 7 < (highOf w.byte).toNat then none else (pickDone (argOrder w) (highOf w.byte).toNat s).map mlcStage

/-- ShelfAdd (R191, R129). -/
def actShelfAdd (w : TakenCommand) (s : State) : Option State :=
  (shelfAdd (argTitle w) (highOf w.byte).toNat w.arg3.toNat s).map shelfStage

/-- ShelfWithdraw (R191, R130). -/
def actShelfWithdraw (w : TakenCommand) (s : State) : Option State := shelfWithdraw (argTitle w) s

/-- SackChanged (R191, R170): a bin above 11 does not reach MLC; the refusal comes in place of its act (log 14). -/
def actSackChanged (w : TakenCommand) (s : State) : Option State :=
  if 11 < w.arg0.toNat then none else (sackChanged w.arg0.toNat s).map updateLane

/-- SackClose (R191, R171): a bin above 11 does not reach MLC; the refusal comes in place of its act (log 14). -/
def actSackClose (w : TakenCommand) (s : State) : Option State :=
  if 11 < w.arg0.toNat then none else sackClose w.arg0.toNat s

/-- ContainerWithdraw (R191, R164). -/
def actContainerWithdraw (w : TakenCommand) (s : State) : Option State :=
  (withdrawContainer (argTag w) s).map mlcStage

/-- ReturnKeyed (R191, R183). -/
def actReturnKeyed (w : TakenCommand) (s : State) : Option State :=
  (returnKeyed (argTag w) s).map (fun s => mlcStage (shelfStage s))

/-- Pause (R192): always accepted. An AVAILABLE that SHU still holds is not offered any more; its mark stays
(log 28). -/
def actPause (s : State) : Option State :=
  let held := s.shu.held.filter (fun f => f.kind != .available)
  some { s with pp := { s.pp with pause := true }, shu := { s.shu with held := held } }

/-- Resume (R192, R137): always accepted. -/
def actResume (s : State) : Option State := some (announce { s with pp := { s.pp with pause := false } })

/-- What a taken command does by its code (R191, R202), `none` being its refusal; no other code is ever taken. -/
def commandAct (w : TakenCommand) (s : State) : Option State :=
  match (codeOf w.byte).toNat with
  | 1 => actPause s
  | 2 => actResume s
  | 3 => actPickDone w s
  | 4 => actShelfAdd w s
  | 5 => actShelfWithdraw w s
  | 6 => actSackChanged w s
  | 7 => actSackClose w s
  | 8 => cardRewrite s
  | 9 => actContainerWithdraw w s
  | 10 => actReturnKeyed w s
  | _ => none

/-- The block of a taken command acts, once, and its decision is posted as the outcome (R190). -/
def carryOut (w : TakenCommand) (s : State) : State :=
  match commandAct w s with
  | some s' => endCommand .accepted s'
  | none => endCommand .refused s

/-- The act of the block of a command code: it comes while the slot is Executing with that command, and is out of place
otherwise (log 6). -/
def actOn (code : BitVec 4) (s : State) : State :=
  match s.pp.slot with
  | .executing w => if codeOf w.byte = code then carryOut w s else s
  | .idle => s

/-! ## Writes by location -/

/-- The location of a plain latch, as PA0..PA2 give it (R185, R202). -/
def latchLocation : LatchPlace → Fin 8
  | .status => 0
  | .argument i => ⟨i.val + 2, by omega⟩
  | .data => 7

/-- A write of location 0..7 (R185, R202). -/
def panelWrite (location : Fin 8) (b : Byte) (s : State) : State :=
  match location with
  | 0 => writeLatch .status b s
  | 1 => takeCommand b s
  | 2 => writeLatch (.argument 0) b s
  | 3 => writeLatch (.argument 1) b s
  | 4 => writeLatch (.argument 2) b s
  | 5 => writeLatch (.argument 3) b s
  | 6 => writePointer b s
  | 7 => writeLatch .data b s

/-- The command location (R185, R202). -/
def commandLocation : Fin 8 := 1

/-- The pointer location (R185, R202). -/
def pointerLocation : Fin 8 := 6

/-- An event of the panel command of a code: the write of its byte, or the act of its block (R190). -/
def commandEvent (code : BitVec 4) (e : CommandEvent) (s : State) : State :=
  match e with
  | .write high => panelWrite commandLocation (commandByte code high) s
  | .act => actOn code s

end Sys2Proof.Machine
end

