-- ==== Sys2Proof/Machine/StartUp.lean ====
section
/-! DEFINITION. Configuration and start-up (chapter 12): the configuration image, the load sum, the validity marker
and the phases of a start, with the reset rules of the blocks (R17, R45, R69, R90, R113, R127, R144, R158, R173,
R184, R193). -/

namespace Sys2Proof.Machine

/-! ## The configuration image (R195 to R197, R202) -/

/-- A value brought into its range (R196). -/
def clamp (lo hi x : Nat) : Nat := max lo (min hi x)

def zoneModeOf (code : Nat) : ZoneMode :=
  match code with
  | 1 => .inside | 2 => .outside | _ => .all

def ZoneMode.code : ZoneMode → Nat
  | .all => 0 | .inside => 1 | .outside => 2

def guardModeOf (code : Nat) : GuardMode :=
  match code with
  | 1 => .strict | _ => .lenient

def GuardMode.code : GuardMode → Nat
  | .lenient => 0 | .strict => 1

def ruleFieldOf (code : Nat) : Option RuleField :=
  match code with
  | 0 => some .zone | 1 => some .kind | 2 => some .weight | 3 => some .urgency | _ => none

def ruleTestOf (code : Nat) : Option RuleTest :=
  match code with
  | 0 => some .equal | 1 => some .notEqual | 2 => some .less | 3 => some .greaterOrEqual
  | 4 => some .inside | 5 => some .outside | _ => none

/-- The sort rule at offset `o`, unless it is dropped (R197). -/
def ruleAt (b : List Byte) (o : Nat) : Option SortRule :=
  match ruleFieldOf (numAt b o 1), ruleTestOf (numAt b (o + 1) 1) with
  | some f, some t =>
    if numAt b (o + 6) 1 ≤ 11 then
      some { field := f, test := t, lo := numAt b (o + 2) 2, hi := numAt b (o + 4) 2, bin := numAt b (o + 6) 1 }
    else none
  | _, _ => none

/-- The settings of a good image, brought into range (R196), with the rules that survive (R197). -/
def readSettings (b : List Byte) : Settings :=
  { dupRate := clamp 1 255 (numAt b 0 1)
    fetchRate := clamp 1 255 (numAt b 1 1)
    shortageCost := clamp 0 4095 (numAt b 2 2)
    holdCost := clamp 0 65534 (numAt b 4 2)
    laneCost := clamp 0 4095 (numAt b 6 2)
    bidWindow := clamp 5 255 (numAt b 8 1)
    takeWait := clamp 20 1000 (numAt b 9 2)
    zoneMode := zoneModeOf (numAt b 11 1)
    zoneLo := clamp 0 999 (numAt b 12 2)
    zoneHi := clamp 0 999 (numAt b 14 2)
    nominalClass := clamp 0 3 (numAt b 16 1)
    nominalE := clamp 0 4 (numAt b 17 1)
    guardMode := guardModeOf (numAt b 18 1)
    loanDaysCart := clamp 1 255 (numAt b 19 1)
    loanDaysBrl := clamp 1 255 (numAt b 20 1)
    writeOffDays := clamp 1 4095 (numAt b 21 2)
    holdLife := clamp 1 4095 (numAt b 23 2)
    wearLimit := clamp 1 65535 (numAt b 25 2)
    scrubInterval := numAt b 27 1
    storeChunks := clamp 16 4096 (numAt b 28 2)
    binCapacity := (List.range 12).map (fun i => numAt b (30 + i) 1)
    defaultBin := clamp 0 11 (numAt b 42 1)
    overflowBin := clamp 0 11 (numAt b 43 1)
    rules := (List.range (clamp 0 16 (numAt b 44 1))).filterMap (fun i => ruleAt b (45 + 7 * i)) }

def ruleImage (r : SortRule) : List Byte :=
  byte r.field.code ++ byte r.test.code ++ word r.lo ++ word r.hi ++ byte r.bin

/-- The loaded settings and sort rules in the byte order of the image (R196, R202). The rule count is that of the rules
that were loaded (DESIGN CHOICE, log 65). -/
def settingsImage (c : Settings) : List Byte :=
  byte c.dupRate ++ byte c.fetchRate ++ word c.shortageCost ++ word c.holdCost ++ word c.laneCost
    ++ byte c.bidWindow ++ word c.takeWait ++ byte c.zoneMode.code ++ word c.zoneLo ++ word c.zoneHi
    ++ byte c.nominalClass ++ byte c.nominalE ++ byte c.guardMode.code ++ byte c.loanDaysCart ++ byte c.loanDaysBrl
    ++ word c.writeOffDays ++ word c.holdLife ++ word c.wearLimit ++ byte c.scrubInterval ++ word c.storeChunks
    ++ c.binCapacity.flatMap byte ++ byte c.defaultBin ++ byte c.overflowBin ++ byte c.rules.length
    ++ c.rules.flatMap ruleImage

/-- The low 16 bits of the sum of bytes (R195, R196). -/
def byteSum (bs : List Byte) : BitVec 16 := BitVec.ofNat 16 ((bs.map (·.toNat)).sum)

/-- The load sum (R196). -/
def loadSum (c : Settings) : BitVec 16 := byteSum (settingsImage c)

/-- The image is good: it was read in whole and its sum equals its checksum (R195). -/
def imageGood (b : List Byte) : Bool := 159 ≤ b.length && (byteSum (b.take 157)).toNat == numAt b 157 2

/-- The settings that a start loads, and whether the image was bad (R195). -/
def loadSettings (inp : ResetInputs) : Settings × Bool :=
  if inp.cfgSrc then (if imageGood inp.image then (readSettings inp.image, false) else (.default, true))
  else (.default, false)

/-! ## Phases 1 and 2 (R193 to R197, R199) -/

/-- PP takes its reset state and CFL its settings; FLI, AU and DE keep nothing (R17, R45, R113, R193). FLI does not
start before phase 5 (log 13). -/
def startPanel (inp : ResetInputs) (s : State) : State :=
  let c := (loadSettings inp).1
  { s with
    pp := Pp.start
    cfl := { s.cfl with station := inp.straps, source := inp.cfgSrc, settings := c, loadSum := loadSum c,
                        phase := .blocks }
    fli := { Fli.start s.clock (if inp.straps = 0 then .muted else .joining) with joinFrom := none }
    au := .start
    de := .start }

/-- ConfigFault for station number 0, then for the configuration checksum (R194, R195). -/
def raiseConfigFaults (inp : ResetInputs) (s : State) : State :=
  let s := if inp.straps = 0 then raise (.configFault .stationZero) s else s
  if (loadSettings inp).2 then raise (.configFault .checksum) s else s

/-! ## Phase 3: the record memory (R198) -/

/-- The marker that this start writes (R198). -/
def newMarker (s : State) : Marker :=
  { pattern := true, station := s.cfl.station, source := s.cfl.source, loadSum := s.cfl.loadSum, check := true }

/-- The marker is intact: its pattern and check are correct, and it names the station number, the configuration source
and the load sum of this start (R198). -/
def markerIntact (s : State) : Bool :=
  let m := s.cfl.marker
  m.pattern && m.check && m.station == s.cfl.station && m.source == s.cfl.source && m.loadSum == s.cfl.loadSum

/-- CFL breaks the marker before it empties the tables (R198). -/
def breakMarker (s : State) : State := { s with cfl := { s.cfl with marker := { s.cfl.marker with pattern := false } } }

/-- CFL writes the marker at the end of the record-memory phase (R198). -/
def writeMarker (s : State) : State := { s with cfl := { s.cfl with marker := newMarker s } }

/-- The first scrub expiry after a start (R86; log 33). -/
def firstScrub (s : State) : Moment := s.clock + scrubPeriod s

/-- The tables after a broken marker: the tables and counters take their power-on values. What the image store memory and the
CRC area hold stays where it is, with no entry naming it (log 34). -/
def emptyTables (s : State) : State :=
  { s with
    cp := .start
    wq := .start
    isc := { Isc.start (firstScrub s) with store := s.isc.store, crcArea := s.isc.crcArea }
    shu := .start
    lu := .start
    mlc := Mlc.start s.cfl.settings.binCapacity
    rti := .start }

/-- A record that was Assigned, Writing, Verifying or Erasing becomes Dirty; every socket field is none (R127). -/
def resetCart (s : State) (r : CartRecord) : State :=
  let s := changeCart r.serial (fun r => { r with socket := none }) s
  match r.state with
  | .assigned | .writing | .verifying | .erasing =>
    enterState r.serial .dirty (changeCart r.serial (fun r => { r with link := none }) s)
  | _ => s

/-- CP's changes at the reset (R127), in the order of the record positions (DESIGN CHOICE, log 52). -/
def resetPool (s : State) : State := (s.cp.records.map (·.2)).foldl resetCart s

/-- A planned cartridge after CP's changes: a link to a Dirty cartridge is cleared, with the load-asked mark, and the
figures are nominal again (R69, R57, R113). -/
def PlannedCart.afterReset (s : State) (pc : PlannedCart) : PlannedCart :=
  if !pc.written && (pc.link.bind (cartOf s)).any (fun r => r.state == .dirty) then
    ({ pc with link := none, loadAsked := false } : PlannedCart).refigure (nominalG s)
  else pc

/-- WQ clears the links to Dirty cartridges (R69). The walk for them runs when identification is complete (R99). -/
def resetLinks (s : State) : State :=
  { s with wq := { s.wq with plan := s.wq.plan.map (fun e => (e.1, e.2.afterReset s)) } }

/-- WQ's changes (R69). -/
def resetWork (s : State) : State :=
  let s := renewBundles (resetLinks s)
  { s with wq := { s.wq with held := [], early := [] } }

/-- ISC's changes (R90). -/
def resetStore (s : State) : State :=
  let s := { s with isc := { s.isc with
    fetch0 := .idle, fetch1 := .idle, serve0 := none, serve1 := none, scrubCursor := 0, scrubRead := none,
    scrubNext := firstScrub s, guardDiscards := 0, port := none, lastFetch := 1, lastServe := 1, held := [] } }
  let gone := (s.isc.directory.filter (fun e =>
    e.2.state == .arriving || (e.2.state == .damaged && pinCount s e.2.name == 0))).map (·.1)
  let s := gone.foldl (fun s i => freeEntry i s) s
  let kept := s.isc.directory.map (fun e => (e.1, { e.2 with source := none, fails := 0 }))
  { s with isc := { s.isc with directory := kept } }

/-- SHU's changes (R144). -/
def resetShelf (s : State) : State :=
  let holds := s.shu.holds.map (fun h => { h with offered := none })
  { s with shu := { s.shu with holds := holds, held := [], due := [] } }

/-- LU's changes (R158). -/
def resetLoans (s : State) : State := { s with lu := { s.lu with dayKnown := false, writeOffs := 0, held := [] } }

/-- The Carded loans in the order allocation issued them, counted from the next loan serial with wrap (R158). -/
def cardedInOrder (s : State) : List LoanTag :=
  (sortBy (fun (t : LoanTag) => (t.serial - s.lu.nextSerial).toNat)
    ((s.lu.loans.filter (fun e => e.2.state == .carded)).map (fun e => e.2.tag)))

/-- The card state of a loan of the rebuilt lane order: a card that was Writing is in Fault (R173). -/
def keptCard (s : State) (tag : LoanTag) : CardState :=
  match s.mlc.laneOrder.find? (fun l => l.tag == tag) with
  | some l => if l.card = .writing then .fault else l.card
  | none => .fault

/-- MLC's changes (R173). -/
def resetLane (s : State) : State :=
  let order := (cardedInOrder s).map (fun t => ({ tag := t, card := keptCard s t } : LaneSlot))
  let writer : Writer :=
    match order.find? (fun l => l.card == .fault) with
    | some l => .fault l.tag
    | none => .idle
  let bins := s.mlc.bins.zipWith (fun (b : Bin) c => { b with capacity := c }) s.cfl.settings.binCapacity
  { s with mlc := { s.mlc with laneOrder := order, writer := writer, gate := .empty, lane := none, bins := bins,
                               cardOut := [] } }

/-- RTI's changes (R184). -/
def resetChute (s : State) : State :=
  { s with rti := { s.rti with chute := .idle, deadline := none, route := none, held := [] } }

/-- The marker is intact: the warm-reset changes, CP first, then WQ, ISC, SHU, LU, MLC and RTI (R199). -/
def keepTables (s : State) : State :=
  resetChute (resetLane (resetLoans (resetShelf (resetStore (resetWork (resetPool s))))))

/-- Phase 3: the tables, then the marker (R198, R199). -/
def recordPhase (warm : Bool) (s : State) : State :=
  writeMarker (if warm && markerIntact s then keepTables s else emptyTables (breakMarker s))

/-! ## Phases 4 and 5 (R199) -/

/-- The sockets found occupied, each once, in socket order (R113). -/
def occupied (inp : ResetInputs) : List SocketNo := (List.finRange 8).filter (fun k => inp.present.contains k)

/-- DE begins to identify the rack (R113). -/
def startRack (inp : ResetInputs) (s : State) : State :=
  let s := (occupied inp).foldl (fun s k => startIdentify k s) s
  { s with de := { s.de with unidentified := occupied inp } }

/-- PickList again for the Pending picks of one bundle (R173). -/
def repeatPicks (index : Nat) (s : State) (b : Bundle) : State :=
  if b.state = .written then raisePicks index (b.riders.filter (fun x => x.pick == some .pending)) s else s

/-- MLC raises its repeated events, sets the lane state, and takes a container at the gate as a detection (R173). The
PickList events go by records in queue order, bundles and items, before CardFault (DESIGN CHOICE, log 83). -/
def startLane (inp : ResetInputs) (s : State) : State :=
  let s := s.wq.records.foldl (fun s r => r.bundles.foldl (repeatPicks (recordIndex s r.order)) s) s
  let s :=
    match s.mlc.writer with
    | .fault tag => raise (.cardFault tag) s
    | _ => s
  let s := updateLane { s with mlc := { s.mlc with lane := none } }
  if inp.gate then detect s else s

/-- RTI reads a container that the reader reports present (R184). -/
def startChute (inp : ResetInputs) (s : State) : State := if inp.chute then chutePresent s else s

/-- With nothing to identify, identification is complete at once (R113). -/
def completeIfEmpty (s : State) : State := if s.de.unidentified.isEmpty then completeStart s else s

/-- Phase 4, and phase 5 when no socket is to be identified (R199). DE, MLC with its events, lane state and gate
detection, SHU's serve passes and RTI go in this order, so the PickList of a hold served here stands behind LaneBlocked
(DESIGN CHOICE, log 87). The holds are served title by title (R144; DESIGN CHOICE, log 72). -/
def startBlocks (inp : ResetInputs) (s : State) : State :=
  let s := startChute inp (serveAll (startLane inp (startRack inp s)))
  fullStage (completeIfEmpty s)

/-- A start (R199). -/
def start (warm : Bool) (inp : ResetInputs) (s : State) : State :=
  startBlocks inp (recordPhase warm (raiseConfigFaults inp (startPanel inp s)))

end Sys2Proof.Machine
end

