-- ==== Sys2Proof/Machine/CommandsLine.lean ====
section
/-! DEFINITION. The meanings of the commands of start-up, the floor line, the auction and the hold timers. Every
meaning first brings the clock to the command's moment (log 1); a command out of place changes nothing else
(log 6). -/

namespace Sys2Proof.Machine

/-- What a meaning answers: the next state. -/
abbrev Result := Host.Outcome State Fault Refusal

/-- POWER_ON_RESET (R199): a start with the marker treated as broken. -/
def execPowerOnReset (t : Moment) (inp : ResetInputs) (s : State) : Result := .next (start false inp (s.at t))

/-- WARM_RESET (R199): a start that keeps the tables if the marker is intact. -/
def execWarmReset (t : Moment) (inp : ResetInputs) (s : State) : Result := .next (start true inp (s.at t))

/-- FRAME_END (R8). -/
def execFrameEnd (t : Moment) (bits : List Bool) (s : State) : Result := .next (frameEnds bits (s.at t))

/-- JOINING_QUIET_TIMEOUT (R14). -/
def execJoiningQuietTimeout (t : Moment) (s : State) : Result := .next (joinedQuiet (s.at t))

/-- TURN_SLOT (R10). -/
def execTurnSlot (t : Moment) (s : State) : Result := .next (turnComes (s.at t))

/-- COLLISION (R12). -/
def execCollision (t : Moment) (s : State) : Result := .next (collide (s.at t))

/-- FRAME_COMPLETE (R13). -/
def execFrameComplete (t : Moment) (s : State) : Result := .next (completeFrame (s.at t))

/-- LINE_BUSY (R1, R9, R14). -/
def execLineBusy (t : Moment) (sight : LineSight) (s : State) : Result := .next (lineSeen sight (s.at t))

/-- An open window of the order has reached its deadline (R34). -/
def windowDue (s : State) (order : OrderSerial) : Bool :=
  (auctionOf s order).any (fun e => e.state == .bidding && s.reached e.windowDeadline)

/-- WINDOW_CLOSE (R34). -/
def execWindowClose (t : Moment) (order : OrderSerial) (s : State) : Result :=
  let s := s.at t
  .next (if windowDue s order then fullStage (windowReached order s) else s)

/-- An entry awaiting a take has reached its take deadline (R37). -/
def takeDue (s : State) (order : OrderSerial) : Bool :=
  (auctionOf s order).any (fun e => e.state == .awaitingTake && e.takeDeadline.any s.reached)

/-- TAKE_DEADLINE (R37). -/
def execTakeDeadline (t : Moment) (order : OrderSerial) (s : State) : Result :=
  let s := s.at t
  .next (if takeDue s order then fullStage (takeReached order s) else s)

/-- An Offered hold has reached its deadline (R140). -/
def holdDue (s : State) (order : OrderSerial) (item : Nat) : Bool :=
  (holdOf s order item).any (fun h => h.offered.any (fun o => s.reached o.2))

/-- HOLD_DEADLINE (R140). -/
def execHoldDeadline (t : Moment) (order : OrderSerial) (item : Nat) (s : State) : Result :=
  let s := s.at t
  .next (if holdDue s order item then shelfStage (returnHold order item (discardHandover order item s)) else s)

end Sys2Proof.Machine
end

