-- ==== Sys2Proof/Machine/CommandsStore.lean ====
section
/-! DEFINITION. The meanings of the commands of the image store (chapter 4). -/

namespace Sys2Proof.Machine

/-- FETCH_SILENCE_TIMEOUT (R78, R82): 500 ms without a frame from the source. -/
def execFetchSilenceTimeout (t : Moment) (x : StreamNo) (s : State) : Result :=
  let s := s.at t
  .next (if (fetchOf s x).silence.any s.reached then fullStage (failStream x s) else s)

/-- BUSY_RETRY_TIMEOUT (R79): station 0 is asked again. -/
def execBusyRetryTimeout (t : Moment) (x : StreamNo) (s : State) : Result :=
  let s := s.at t
  .next (if (fetchOf s x).retryAt.any s.reached then ask x s else s)

/-- What follows from a change of the store's contents or of an image's state: the work queue's bundle states, the
fetch streams, the rack and the store port. -/
def storeStage (s : State) : State := rackStage (settleStore (settleWork s))

/-- FETCH_SLICE_WRITTEN (R81): the granted write of a stream's slice is done. -/
def execFetchSliceWritten (t : Moment) (x : StreamNo) (s : State) : Result :=
  let s := s.at t
  .next (if s.isc.port = some (.fetch x) then storeStage (sliceWritten x (releasePort s)) else s)

/-- SERVE_SLICE_READ (R85): the granted read of a serve stream's slice is done. -/
def execServeSliceRead (t : Moment) (x : StreamNo) (fade : StoreFade) (s : State) : Result :=
  let s := s.at t
  .next (if s.isc.port = some (.serve x) then rackStage (serveRead x (releasePort (applyFade fade s))) else s)

/-- SCRUB_EXPIRY (R86): once every interval; an interval of 0 turns scrub off. -/
def execScrubExpiry (t : Moment) (s : State) : Result :=
  let s := s.at t
  .next (
    if s.cfl.settings.scrubInterval != 0 && s.reached s.isc.scrubNext then
      grantPort (scrubStart { s with isc := { s.isc with scrubNext := s.isc.scrubNext + scrubPeriod s } })
    else s)

/-- SCRUB_SECTOR_READ (R86): the scrub read of a sector is done. -/
def execScrubSectorRead (t : Moment) (fade : StoreFade) (s : State) : Result :=
  let s := s.at t
  .next (if s.isc.port = some .scrub then storeStage (scrubFinish (releasePort (applyFade fade s))) else s)

/-- WRITE_SLOT_FILLED (R104): DE's read of a sector from the image store is done. -/
def execWriteSlotFilled (t : Moment) (fade : StoreFade) (s : State) : Result :=
  let s := s.at t
  .next (
    if s.isc.port = some .duplicator then storeStage (slotFilled (slicesOver (releasePort (applyFade fade s)))) else s)

end Sys2Proof.Machine
end

