-- ==== Sys2Proof/Machine/CommandsRack.lean ====
section
/-! DEFINITION. The meanings of the commands of the duplicator rack (chapter 5). -/

namespace Sys2Proof.Machine

/-- The bus is granted for an operation (R98). -/
def granted (s : State) (op : BusOp) : Bool := s.de.grant.any (fun g => g.op == op)

/-- SOCKET_PRESENT (R92). -/
def execSocketPresent (t : Moment) (k : SocketNo) (s : State) : Result :=
  let s := s.at t
  .next (if (socketOf s k).isNone then rackStage (startIdentify k s) else s)

/-- HEADER_READ_DONE (R92). -/
def execHeaderReadDone (t : Moment) (area : List Byte) (s : State) : Result :=
  let s := s.at t
  .next (if granted s .headerRead then mlcStage (rackStage (headerRead area s)) else s)

/-- READ_LIMIT_EXPIRY (R94, R95): a transfer without ready from the cartridge within the read limit. After the first ready
of the transfer the limit no longer runs, and the command is out of place. -/
def execReadLimitExpiry (t : Moment) (s : State) : Result :=
  let s := s.at t
  .next (if s.de.grant.any (fun g => g.limit.any s.reached) then mlcStage (rackStage (grantLate s)) else s)

/-- WRITE_POSTED (R96). -/
def execWritePosted (t : Moment) (s : State) : Result :=
  let s := s.at t
  .next (if granted s .write then rackStage (postWrite s) else s)

/-- ERASE_COMMAND_SENT (R110). -/
def execEraseCommandSent (t : Moment) (s : State) : Result :=
  let s := s.at t
  .next (if granted s .erase then rackStage (sendErase s) else s)

/-- SECTOR_READ_DONE (R97, R106): the sector lands in the read slot and is checked, at once if the store port allows (rackStage). -/
def execSectorReadDone (t : Moment) (sector : List Byte) (fade : StoreFade) (s : State) : Result :=
  let s := s.at t
  .next (if granted s .sectorRead then rackStage (sectorRead sector (applyFade fade s)) else s)

/-- A cartridge's ready is awaited for more than the read limit of a transfer: it works on its own, has let a limit run
out, or fails a transfer (R94). -/
def readyAwaited (s : State) (k : SocketNo) (pass : Bool) : Bool :=
  (socketOf s k).any (fun e => e.deadline.isSome || e.silent) || (!pass && s.de.grant.any (fun g => g.socket == k))

/-- CARTRIDGE_READY (R94). One that nothing awaits but the transfer in progress of its socket ends the read limit of that
transfer (`transferReady`, log 89). -/
def execCartridgeReady (t : Moment) (k : SocketNo) (pass : Bool) (s : State) : Result :=
  let s := s.at t
  .next (if readyAwaited s k pass then mlcStage (rackStage (cartReady k pass s)) else transferReady k s)

/-- CARTRIDGE_DEADLINE (R94). -/
def execCartridgeDeadline (t : Moment) (k : SocketNo) (s : State) : Result :=
  let s := s.at t
  .next (if (socketOf s k).any (fun e => e.deadline.any s.reached) then rackStage (cartLate k s) else s)

/-- CARTRIDGE_REMOVE (R112). -/
def execCartridgeRemove (t : Moment) (k : SocketNo) (s : State) : Result :=
  let s := s.at t
  .next (if (socketOf s k).isSome then mlcStage (rackStage (removeCart k s)) else s)

end Sys2Proof.Machine
end

