-- ==== Sys2Proof/Machine/CommandsCell.lean ====
section
/-! DEFINITION. The meanings of the commands of the card writer, the mail gate (chapter 9) and the chute
(chapter 10). -/

namespace Sys2Proof.Machine

/-- CARD_DONE (R163). -/
def execCardDone (t : Moment) (tag : LoanTag) (s : State) : Result :=
  let s := s.at t
  .next (if s.mlc.writer.isWriting tag then mlcStage (cardDone tag s) else s)

/-- CARD_FAULT (R163). -/
def execCardFault (t : Moment) (tag : LoanTag) (s : State) : Result := .next (cardFaulted tag (s.at t))

/-- CARD_DEADLINE (R163). -/
def execCardDeadline (t : Moment) (s : State) : Result := .next (cardOverdue (s.at t))

/-- CARD_IMAGE_SENT (R162). -/
def execCardImageSent (t : Moment) (s : State) : Result := .next (cardSent (s.at t))

/-- DETECTION (R165). -/
def execDetection (t : Moment) (s : State) : Result :=
  let s := s.at t
  .next (if s.mlc.gate = .empty then updateLane (detect s) else s)

/-- The gate is Diverting (R165). -/
def Gate.isDiverting : Gate → Bool
  | .diverting _ _ => true
  | .empty | .holding _ _ => false

/-- DIVERTER_ACKNOWLEDGE (R168). -/
def execDiverterAcknowledge (t : Moment) (s : State) : Result :=
  let s := s.at t
  .next (if s.mlc.gate.isDiverting then mlcStage (shelfStage (acknowledge s)) else s)

/-- CONTAINER_PRESENT (R174). -/
def execContainerPresent (t : Moment) (s : State) : Result := .next (chutePresent (s.at t))

/-- CARD_IMAGE_COMPLETE (R175). -/
def execCardImageComplete (t : Moment) (bits : List Bool) (s : State) : Result :=
  let s := s.at t
  .next (if s.rti.chute = .reading then mlcStage (shelfStage (cardImageComplete bits s)) else s)

/-- CHUTE_READ_FAILURE (R174, R175). -/
def execChuteReadFailure (t : Moment) (s : State) : Result := .next (chuteFails (s.at t))

/-- READ_DEADLINE (R174, R175). -/
def execReadDeadline (t : Moment) (s : State) : Result := .next (chuteLate (s.at t))

/-- ROUTE_DONE (R174). -/
def execRouteDone (t : Moment) (s : State) : Result := .next (routeEnds (s.at t))

end Sys2Proof.Machine
end

