-- ==== Sys2Proof/Machine/CommandsPanel.lean ====
section
/-! DEFINITION. The meanings of the panel's accesses and commands (chapter 11). A command is written to location 1, with
its code in the low four bits, and its block acts on it in a later event of the same row (log 14). -/

namespace Sys2Proof.Machine

/-- PAUSE (R192), command code 1. -/
def execPause (t : Moment) (e : CommandEvent) (s : State) : Result := .next (commandEvent 1#4 e (s.at t))

/-- RESUME (R192), command code 2. -/
def execResume (t : Moment) (e : CommandEvent) (s : State) : Result := .next (commandEvent 2#4 e (s.at t))

/-- PICK_DONE (R159), command code 3. -/
def execPickDone (t : Moment) (e : CommandEvent) (s : State) : Result := .next (commandEvent 3#4 e (s.at t))

/-- SHELF_ADD (R129), command code 4. -/
def execShelfAdd (t : Moment) (e : CommandEvent) (s : State) : Result := .next (commandEvent 4#4 e (s.at t))

/-- SHELF_WITHDRAW (R130), command code 5. -/
def execShelfWithdraw (t : Moment) (e : CommandEvent) (s : State) : Result := .next (commandEvent 5#4 e (s.at t))

/-- SACK_CHANGED (R170), command code 6. -/
def execSackChanged (t : Moment) (e : CommandEvent) (s : State) : Result := .next (commandEvent 6#4 e (s.at t))

/-- SACK_CLOSE (R171), command code 7. -/
def execSackClose (t : Moment) (e : CommandEvent) (s : State) : Result := .next (commandEvent 7#4 e (s.at t))

/-- CARD_REWRITE (R163), command code 8. -/
def execCardRewrite (t : Moment) (e : CommandEvent) (s : State) : Result := .next (commandEvent 8#4 e (s.at t))

/-- CONTAINER_WITHDRAW (R164), command code 9. -/
def execContainerWithdraw (t : Moment) (e : CommandEvent) (s : State) : Result := .next (commandEvent 9#4 e (s.at t))

/-- RETURN_KEYED (R183), command code 10. -/
def execReturnKeyed (t : Moment) (e : CommandEvent) (s : State) : Result := .next (commandEvent 10#4 e (s.at t))

/-- COMMAND_CODE_UNKNOWN (R190): a code that names no command. -/
def execCommandCodeUnknown (t : Moment) (code : UnknownCode) (high : BitVec 4) (s : State) : Result :=
  .next (panelWrite commandLocation (commandByte (unknownCode code) high) (s.at t))

/-- REFUSED_WRITE (R190, R199): a write of the command location; while a command executes, or before phase 4 of a start
has ended, it is ignored, and where the location is open it is taken as any write of it is (log 14). -/
def execRefusedWrite (t : Moment) (b : Byte) (s : State) : Result :=
  .next (panelWrite commandLocation b (s.at t))

/-- POINTER_WRITE (R186). -/
def execPointerWrite (t : Moment) (table : Byte) (s : State) : Result :=
  .next (panelWrite pointerLocation table (s.at t))

/-- RECORD_WINDOW_READ (R187): a read of the data/event location. What it fetches follows the pointer. -/
def execRecordWindowRead (t : Moment) (s : State) : Result := .next (readData (s.at t))

/-- EVENT_READ (R189): a read of the data/event location, in the event view. -/
def execEventRead (t : Moment) (s : State) : Result := .next (readData (s.at t))

/-- REGISTER_WRITE (R185). -/
def execRegisterWrite (t : Moment) (place : LatchPlace) (b : Byte) (s : State) : Result :=
  .next (panelWrite (latchLocation place) b (s.at t))

end Sys2Proof.Machine
end

