-- ==== Sys2Proof/Machine/Dispatch.lean ====
section
/-! DEFINITION. One arm for each command: a direct call of its meaning. -/

namespace Sys2Proof.Machine

def exec (i : Instr) (s : State) : Host.Outcome State Fault Refusal :=
  match i with
  | .powerOnReset t inp => Sys2Proof.Machine.execPowerOnReset t inp s
  | .warmReset t inp => Sys2Proof.Machine.execWarmReset t inp s
  | .frameEnd t bits => Sys2Proof.Machine.execFrameEnd t bits s
  | .joiningQuietTimeout t => Sys2Proof.Machine.execJoiningQuietTimeout t s
  | .turnSlot t => Sys2Proof.Machine.execTurnSlot t s
  | .collision t => Sys2Proof.Machine.execCollision t s
  | .frameComplete t => Sys2Proof.Machine.execFrameComplete t s
  | .windowClose t order => Sys2Proof.Machine.execWindowClose t order s
  | .takeDeadline t order => Sys2Proof.Machine.execTakeDeadline t order s
  | .fetchSilenceTimeout t x => Sys2Proof.Machine.execFetchSilenceTimeout t x s
  | .busyRetryTimeout t x => Sys2Proof.Machine.execBusyRetryTimeout t x s
  | .fetchSliceWritten t x => Sys2Proof.Machine.execFetchSliceWritten t x s
  | .serveSliceRead t x fade => Sys2Proof.Machine.execServeSliceRead t x fade s
  | .scrubExpiry t => Sys2Proof.Machine.execScrubExpiry t s
  | .scrubSectorRead t fade => Sys2Proof.Machine.execScrubSectorRead t fade s
  | .socketPresent t k => Sys2Proof.Machine.execSocketPresent t k s
  | .headerReadDone t area => Sys2Proof.Machine.execHeaderReadDone t area s
  | .readLimitExpiry t => Sys2Proof.Machine.execReadLimitExpiry t s
  | .writeSlotFilled t fade => Sys2Proof.Machine.execWriteSlotFilled t fade s
  | .writePosted t => Sys2Proof.Machine.execWritePosted t s
  | .eraseCommandSent t => Sys2Proof.Machine.execEraseCommandSent t s
  | .sectorReadDone t sector fade => Sys2Proof.Machine.execSectorReadDone t sector fade s
  | .cartridgeReady t k pass => Sys2Proof.Machine.execCartridgeReady t k pass s
  | .cartridgeDeadline t k => Sys2Proof.Machine.execCartridgeDeadline t k s
  | .cartridgeRemove t k => Sys2Proof.Machine.execCartridgeRemove t k s
  | .shelfAdd t e => Sys2Proof.Machine.execShelfAdd t e s
  | .shelfWithdraw t e => Sys2Proof.Machine.execShelfWithdraw t e s
  | .holdDeadline t order item => Sys2Proof.Machine.execHoldDeadline t order item s
  | .pickDone t e => Sys2Proof.Machine.execPickDone t e s
  | .cardDone t tag => Sys2Proof.Machine.execCardDone t tag s
  | .cardFault t tag => Sys2Proof.Machine.execCardFault t tag s
  | .cardDeadline t => Sys2Proof.Machine.execCardDeadline t s
  | .cardRewrite t e => Sys2Proof.Machine.execCardRewrite t e s
  | .containerWithdraw t e => Sys2Proof.Machine.execContainerWithdraw t e s
  | .detection t => Sys2Proof.Machine.execDetection t s
  | .diverterAcknowledge t => Sys2Proof.Machine.execDiverterAcknowledge t s
  | .sackChanged t e => Sys2Proof.Machine.execSackChanged t e s
  | .sackClose t e => Sys2Proof.Machine.execSackClose t e s
  | .containerPresent t => Sys2Proof.Machine.execContainerPresent t s
  | .cardImageComplete t bits => Sys2Proof.Machine.execCardImageComplete t bits s
  | .chuteReadFailure t => Sys2Proof.Machine.execChuteReadFailure t s
  | .readDeadline t => Sys2Proof.Machine.execReadDeadline t s
  | .routeDone t => Sys2Proof.Machine.execRouteDone t s
  | .returnKeyed t e => Sys2Proof.Machine.execReturnKeyed t e s
  | .pointerWrite t byte => Sys2Proof.Machine.execPointerWrite t byte s
  | .recordWindowRead t => Sys2Proof.Machine.execRecordWindowRead t s
  | .eventRead t => Sys2Proof.Machine.execEventRead t s
  | .pause t e => Sys2Proof.Machine.execPause t e s
  | .resume t e => Sys2Proof.Machine.execResume t e s
  | .commandCodeUnknown t code high => Sys2Proof.Machine.execCommandCodeUnknown t code high s
  | .registerWrite t place byte => Sys2Proof.Machine.execRegisterWrite t place byte s
  | .lineBusy t sight => Sys2Proof.Machine.execLineBusy t sight s
  | .refusedWrite t byte => Sys2Proof.Machine.execRefusedWrite t byte s
  | .cardImageSent t => Sys2Proof.Machine.execCardImageSent t s

end Sys2Proof.Machine
end

