-- ==== Sys2Proof/Safety.lean ====
section
/-! DEFINITION. What the statements about whole runs speak of: the moment of a command, the parts of a block that
a frame names, and the invariants that every step keeps. -/

namespace Sys2Proof

/-- The moment at which a command happens (log 1). -/
def Instr.moment : Instr → Moment
  | .powerOnReset t _ | .warmReset t _ | .frameEnd t _ | .joiningQuietTimeout t | .turnSlot t | .collision t
  | .frameComplete t | .windowClose t _ | .takeDeadline t _ | .fetchSilenceTimeout t _ | .busyRetryTimeout t _
  | .fetchSliceWritten t _ | .serveSliceRead t _ _ | .scrubExpiry t | .scrubSectorRead t _ | .socketPresent t _
  | .headerReadDone t _ | .readLimitExpiry t | .writeSlotFilled t _ | .writePosted t | .eraseCommandSent t
  | .sectorReadDone t _ _ | .cartridgeReady t _ _ | .cartridgeDeadline t _ | .cartridgeRemove t _ | .shelfAdd t _
  | .shelfWithdraw t _ | .holdDeadline t _ _ | .pickDone t _ | .cardDone t _ | .cardFault t _ | .cardDeadline t
  | .cardRewrite t _ | .containerWithdraw t _ | .detection t | .diverterAcknowledge t | .sackChanged t _
  | .sackClose t _ | .containerPresent t | .cardImageComplete t _ | .chuteReadFailure t | .readDeadline t
  | .routeDone t | .returnKeyed t _ | .pointerWrite t _ | .recordWindowRead t | .eventRead t | .pause t _
  | .resume t _ | .commandCodeUnknown t _ _ | .registerWrite t _ _ | .lineBusy t _ | .refusedWrite t _
  | .cardImageSent t => t

/-- The two commands that start the station anew (R199). -/
def Instr.isReset : Instr → Bool
  | .powerOnReset _ _ | .warmReset _ _ => true
  | _ => false

/-- The rows of the panel commands, whose events are the writes of the command location and the acts on the commands
taken there (R190). -/
def Instr.isPanelCommand : Instr → Bool
  | .pause _ _ | .resume _ _ | .pickDone _ _ | .shelfAdd _ _ | .shelfWithdraw _ _ | .sackChanged _ _ | .sackClose _ _
  | .cardRewrite _ _ | .containerWithdraw _ _ | .returnKeyed _ _ | .commandCodeUnknown _ _ _ | .refusedWrite _ _ => true
  | _ => false

namespace Machine

/-- Everything that FLI holds but its control queue. -/
def Fli.butQueue (f : Fli) : Fli := { f with queue := [] }

/-- Everything that FLI holds but its control queue and the mark on a withdrawn head. -/
def Fli.turns (f : Fli) : Fli := { f with queue := [], withdrawHead := false }

/-- Everything that PP holds but its event queue with the drop count and the EventsLost flag. -/
def Pp.butEvents (p : Pp) : Pp := { p with events := [], drops := 0, eventsLost := false }

/-- The image store memory stands in its one canonical form. -/
abbrev State.storeCanonical (s : State) : Prop := Memory.wf s.isc.store = true

/-- Each of these queues and counters stays within the size that its chapter gives it: control queue and collision
count, the counts of AU, the heard bids of an auction (the latest of each other station), work queue, plan store and
gate counts, the counters of ISC, the stamp counters of CP and SHU, the holds, the calendar, the sack number, event
queue and drop count. -/
abbrev State.bounded (s : State) : Prop :=
  s.fli.queue.length ≤ 16 ∧ s.fli.collisions ≤ 65535
    ∧ s.au.malformed ≤ 65535 ∧ s.au.declined ≤ 65535
    ∧ (∀ e ∈ s.au.entries, e.2.heard.length ≤ 15 ∧ (e.2.heard.map (·.station)).Nodup
        ∧ s.cfl.station ∉ e.2.heard.map (·.station))
    ∧ s.wq.records.length ≤ 32 ∧ s.wq.plan.length ≤ 128 ∧ Table.wf 128 s.wq.plan = true
    ∧ (∀ r ∈ s.wq.records, r.gateCount ≤ 255)
    ∧ s.isc.guardDiscards ≤ 65535 ∧ s.isc.useCounter ≤ 4294967295
    ∧ s.cp.stamp ≤ 4294967295 ∧ s.shu.seq ≤ 4294967295 ∧ s.shu.holds.length ≤ 128
    ∧ s.lu.day ≤ 65535 ∧ s.lu.writeOffs ≤ 65535
    ∧ s.mlc.sackNo ≤ 65535
    ∧ s.pp.events.length ≤ 32 ∧ s.pp.drops ≤ 255

/-- Each of the nine tables of numbered positions lists each position once, in rising order, and none beyond its size.
The pool holds no two records of one serial, the hold list none of one order and item, the loans none of one tag; the
bundles of a work record are numbered from 1 on. -/
abbrev State.tablesSound (s : State) : Prop :=
  Table.wf 16 s.au.entries = true ∧ Table.wf 128 s.wq.plan = true ∧ Table.wf 512 s.isc.directory = true
    ∧ Table.wf 4096 s.isc.chains = true ∧ s.cfl.settings.storeChunks ≤ 4096 ∧ Table.wf 8 s.de.sockets = true
    ∧ Table.wf 512 s.cp.records = true ∧ (s.cp.records.map (·.2.serial)).Nodup ∧ Table.wf 1024 s.shu.shelf = true
    ∧ (s.shu.holds.map (fun h => (h.order, h.item))).Nodup
    ∧ Table.wf 2048 s.lu.loans = true ∧ (s.lu.loans.map (·.2.tag)).Nodup
    ∧ Table.wf 64 s.mlc.manifest = true ∧ s.mlc.writePos < 64
    ∧ ∀ r ∈ s.wq.records, r.bundles.map (·.number) = List.range' 1 r.bundles.length

/-- A Muted station drives nothing on the line, has nothing to send and stands in no auction (R7, R40). -/
abbrev State.silentWhenMuted (s : State) : Prop :=
  s.fli.txState = .muted →
    s.fli.lineOut = [] ∧ s.fli.sending = none ∧ s.fli.queue = [] ∧ s.au.entries = [] ∧ s.au.held = []

/-- A bundle of an order carries an item: a planned cartridge of it has a placement of the item, or the item rides it
(R52, R65). -/
def State.carries (s : State) (order : OrderSerial) (b : Bundle) (item : Nat) : Prop :=
  (∃ e ∈ s.wq.plan, e.2.order = order ∧ e.2.bundle = b.number ∧ ∃ p ∈ e.2.placements, p.item = item)
    ∨ ∃ x ∈ b.riders, x.item = item

/-- A record of the record window reads as these fields, cut off at its length, and behind them as free values (R187,
R202; log 15). -/
def State.shows (s : State) (table index : Nat) (fields : List Byte) : Prop :=
  windowRecord s table index = fields.take (recordLength table)
    ++ (List.range (recordLength table - fields.length)).map (fun i => Config.windowPad table (fields.length + i))

/-- The class of a user of the store port, the first to be served being 0 (R88). -/
def PortUser.rank : PortUser → Nat
  | .fetch _ => 0
  | .duplicator => 1
  | .serve _ => 2
  | .scrub => 3

/-- A planned cartridge that is not written is linked to cartridge `c` and names an image. -/
def State.makesFrom (s : State) (name : ImageName) (c : CartSerial) : Prop :=
  ∃ e ∈ s.wq.plan, e.2.written = false ∧ e.2.link = some c ∧ ∃ p ∈ e.2.placements, placementImage s e.2 p = some name

/-- What is left when a sector of the Present entry at `i` has failed its check (R87): the entry Damaged, or freed when
nothing pins it; its event raised while there is room; its serve streams ended with INFO Absent (its size is log 17); the
cartridges being written or verified from the image stopped, Dirty and erased in their sockets, without link (R107); and
an Assigned one held in its socket (R101; log 43). -/
def damageLeaves (i : Nat) (s v : State) : Prop :=
  (∀ e, dirAt s i = some e → dirAt v i = if pinCount v e.name = 0 then none
      else some { e with state := .damaged, complete := 0, source := none })
    ∧ (∀ j, j ≠ i → dirAt v j = dirAt s j)
    ∧ (s.pp.events.length < 32 → v.pp.events = s.pp.events ++ [.imageDamaged i])
    ∧ (∀ x, serveOf v x = (serveOf s x).filter (fun w => w.entry != i))
    ∧ (∀ frames : List Frame, frames = ([0, 1] : List StreamNo).filterMap (fun x =>
          ((serveOf s x).filter (fun w => w.entry == i)).map (fun w =>
            infoFrame w.requester w.name (Config.infoSize 1).toNat .absent)) →
        s.fli.txState ≠ .muted → s.fli.queue.length + frames.length ≤ 16 →
        v.fli = { s.fli with queue := s.fli.queue ++ frames })
    ∧ (∀ (e : DirEntry) (c : CartSerial) (r : CartRecord), dirAt s i = some e → cartOf s c = some r →
        s.makesFrom e.name c →
        (r.state = .writing ∨ r.state = .verifying →
          (∃ r', cartOf v c = some r' ∧ r'.link = none ∧ r'.state = if r.socket = none then .dirty else .erasing)
          ∧ (∀ p pc, v.wq.plan.at? p = some pc → pc.link = some c → pc.written = true)
          ∧ ∀ k x, r.socket = some k → (∀ d y, cartOf s d = some y → y.socket = some k → d = c) →
            socketOf s k = some x → ∃ x', socketOf v k = some x' ∧ x'.state = .busy ∧ x'.op = some (.erase false 0)
              ∧ x'.attempt = 1 ∧ x'.deadline = x.deadline ∧ x'.stale = x.deadline.isSome)
        ∧ (r.state = .assigned → cartOf v c = some r
          ∧ ∀ k x, r.socket = some k → (∀ d y, cartOf s d = some y → y.socket = some k → d = c) →
            socketOf s k = some x → socketOf v k = some x.rest))
    ∧ v.isc.store = s.isc.store ∧ v.isc.crcArea = s.isc.crcArea

/-- What a failure of the operation of socket `k` with cartridge `c` leaves, `e` being the socket's entry without the
work that has ended: the rewrite of attempt 2 after a first failure of a write (R108), else the cartridge Faulted
(R109, R111). -/
def failureLeaves (k : SocketNo) (e : SocketEntry) (op : Op) (c : CartSerial) (s v : State) : Prop :=
  if op.ofErase = true ∨ e.attempt = 2 then
    socketOf v k = some { e.rest with attempt := 1 }
      ∧ (∀ r, cartOf s c = some r → ∃ r', cartOf v c = some r' ∧ r'.state = .faulted ∧ r'.link = none)
      ∧ (∀ p pc, v.wq.plan.at? p = some pc → pc.link = some c → pc.written = true)
      ∧ (s.pp.events.length < 32 → v.pp.events = s.pp.events ++ [.cartridgeFaulted k])
  else
    socketOf v k = some { e with op := some (.erase true 0), attempt := 2 }
      ∧ (∀ r, cartOf s c = some r → ∃ r', cartOf v c = some r' ∧ r'.state = .writing ∧ r'.link = r.link)
      ∧ v.wq.plan = s.wq.plan ∧ v.pp = s.pp

end Machine

end Sys2Proof
end

