-- ==== Sys2Proof/Certificates/Slice0/Obligations.lean ====
section
/-! DEFINITION. The statements about the J612, in terms of the meanings of its commands, for the provers.

`s.at t` is the state with its clock brought to the moment of the command (log 1); a command's meaning is its own
act on that state, followed by the stages in which the other blocks go on (log 7). A panel command stands taken in the
command slot until its block acts on it: `.act` is that act, at whatever moment it comes (log 14). -/

open Sys2Proof Sys2Proof.Machine

/-! ## Steps, invariants and whole-machine rules -/

/-- A step takes the command at the front of the queue and carries it out with the rest of the queue; with none
waiting it changes nothing (logs 2 and 3). -/
def Obligations.StepTakesFrontCommand : Prop :=
  (∀ (c : Instr) (rest : List Instr) (s : State), s.pending = c :: rest → step s = exec c { s with pending := rest })
    ∧ ∀ s : State, s.pending = [] → step s = .next s

/-- Every command answers a next state, brings the clock to its moment and leaves the queue of waiting commands alone:
nothing stops the station (log 6). -/
def Obligations.EveryCommandAnswersNextState : Prop :=
  ∀ (c : Instr) (s : State), ∃ u, exec c s = .next u ∧ u.clock = max s.clock c.moment ∧ u.pending = s.pending

/-- R15, R18, R46, R47, R133, R188 and the counters of the chapters: every step keeps each of the queues and counters
that `State.bounded` lists within its size. The lane order (R161) and the bins (R169) are not among them. -/
def Obligations.StepKeepsQueuesAndCountersBounded : Prop :=
  ∀ s u : State, s.bounded → step s = .next u → u.bounded

/-- R18, R46, R70, R72, R91, R114, R128, R145, R172: every step keeps each of the nine tables of numbered positions
that `State.tablesSound` lists sound: auction table, plan store, image directory, chunk chain table, sockets, pool,
shelf, loans and manifest with its write position; and no two records stand under one cartridge serial, one hold or
one loan tag, and bundle numbers rise from 1. -/
def Obligations.StepKeepsTablesSound : Prop :=
  ∀ s u : State, s.tablesSound → step s = .next u → u.tablesSound

/-- Every step keeps the image store memory in its canonical form (log 4). -/
def Obligations.StepKeepsStoreCanonical : Prop :=
  ∀ s u : State, s.storeCanonical → step s = .next u → u.storeCanonical

/-- R7, R40: whatever step is taken, a Muted station drives nothing on the line, has nothing to send and stands in no
auction. -/
def Obligations.MutedStationStaysSilent : Prop :=
  ∀ s u : State, s.silentWhenMuted → step s = .next u → u.silentWhenMuted

/-- The state after reset meets the four invariants. -/
def Obligations.ResetMeetsInvariants : Prop :=
  State.reset.bounded ∧ State.reset.tablesSound ∧ State.reset.storeCanonical ∧ State.reset.silentWhenMuted

/-- R194 to R199, R150, R190, R192: no command but a reset changes the station number, the settings or the marker, or
takes the day number back; none but a reset and the acts of Pause and Resume changes the pause flag; and none but a
reset and the panel commands (their writes and acts, log 14) changes the command slot with the command it has taken, the
outcome, the command byte or the refused-write flag. -/
def Obligations.OnlyResetsChangeSettings : Prop :=
  ∀ (c : Instr) (s u : State), c.isReset = false → exec c s = .next u →
    u.cfl.station = s.cfl.station ∧ u.cfl.settings = s.cfl.settings ∧ u.cfl.marker = s.cfl.marker
      ∧ s.lu.day ≤ u.lu.day
      ∧ ((∀ t, c ≠ .pause t .act) → (∀ t, c ≠ .resume t .act) → u.pp.pause = s.pp.pause)
      ∧ (c.isPanelCommand = false → u.pp.slot = s.pp.slot ∧ u.pp.outcome = s.pp.outcome ∧ u.pp.command = s.pp.command
          ∧ u.pp.refusedWrite = s.pp.refusedWrite)

/-- What the blocks do by themselves after an act (log 7) leaves the settings, the auctions, the chute, the line (but
for the control queue), the panel (but for the event queue), the calendar and the image store's contents alone; a
narrower stage leaves more, the rack's FLI and the shelf too while no sector waits to be checked. -/
def Obligations.StagesLeaveOtherBlocksAlone : Prop :=
  (∀ s : State, (fullStage s).cfl = s.cfl ∧ (fullStage s).au = s.au ∧ (fullStage s).rti = s.rti
      ∧ (fullStage s).fli.butQueue = s.fli.butQueue ∧ (fullStage s).pp.butEvents = s.pp.butEvents
      ∧ (fullStage s).lu.day = s.lu.day ∧ (fullStage s).isc.store = s.isc.store)
    ∧ (∀ s : State, (shelfStage s).cfl = s.cfl ∧ (shelfStage s).au = s.au ∧ (shelfStage s).isc = s.isc
      ∧ (shelfStage s).de = s.de ∧ (shelfStage s).cp = s.cp ∧ (shelfStage s).lu = s.lu ∧ (shelfStage s).mlc = s.mlc
      ∧ (shelfStage s).rti = s.rti ∧ (shelfStage s).fli.butQueue = s.fli.butQueue
      ∧ (shelfStage s).pp.butEvents = s.pp.butEvents)
    ∧ (∀ s : State, (rackStage s).cfl = s.cfl ∧ (rackStage s).fli.butQueue = s.fli.butQueue ∧ (rackStage s).au = s.au
      ∧ (rackStage s).isc.store = s.isc.store ∧ (rackStage s).lu = s.lu
      ∧ (rackStage s).mlc = s.mlc ∧ (rackStage s).rti = s.rti ∧ (rackStage s).pp.butEvents = s.pp.butEvents
      ∧ (s.de.readSlot = none → (rackStage s).fli = s.fli ∧ (rackStage s).shu = s.shu))
    ∧ ∀ s : State, (mlcStage s).cfl = s.cfl ∧ (mlcStage s).fli = s.fli ∧ (mlcStage s).au = s.au
      ∧ (mlcStage s).isc = s.isc ∧ (mlcStage s).de = s.de ∧ (mlcStage s).shu = s.shu ∧ (mlcStage s).rti = s.rti
      ∧ (mlcStage s).lu.day = s.lu.day ∧ (mlcStage s).pp.butEvents = s.pp.butEvents

/-! ## Formats -/

/-- R1 to R4, R200: what one station drives on the line for a frame (after its opening flag) another receives as a
good frame with the same source, destination, kind, subject, detail and payload; a frame that ends by an abort is bad.
-/
def Obligations.SentFramesAreReceived : Prop :=
  (∀ (source : Station) (f : Frame), f.payload.length ≤ 1040 →
    receive ((lineBits source f).drop 8)
      = some { source := source, dest := f.dest.toNat, kind := f.kind.code, subject := f.subject,
               detail := f.detail, payload := f.payload })
    ∧ ∀ bits : List Bool, receive (bits ++ abortBits) = none

/-- R20, R92, R152, R162, R175, R200, R201 and chapter 13: tags, image names, identity areas and OFFER payloads read
back as they were laid out; the chute reads from the bits of a return face, each byte least significant bit first,
exactly the tag and the contents that the card writer was given, and a tag in which one digit has been changed no
longer agrees with its check digit. The card writer gets the outbound face (patron, zone, order, kind, part and part
count, carded date, due date) and then the return face. R151: the date of a day number is the day of the Gregorian
calendar (2100 has no leap day) that stands that many days after 2000-01-01, as the digits YYYYMMDD. -/
def Obligations.FormatsReadBack : Prop :=
  ((∀ (tag : LoanTag) (serials : List CartSerial), tag.station ≠ 0 → 1 ≤ serials.length → serials.length ≤ 4 →
    readCard (returnFace { tag := tag, body := .cartridge serials }) = .card { tag := tag, body := .cartridge serials })
    ∧ (∀ (tag set : LoanTag) (title : Title) (k n last : Nat), tag.station ≠ 0 → set.station = tag.station →
      1 ≤ k → k ≤ n → n ≤ 3 → 4 * k - 3 ≤ last → last ≤ 4 * k →
      readCard (returnFace { tag := tag, body := .braille title set k n (4 * k - 3) last })
        = .card { tag := tag, body := .braille title set k n (4 * k - 3) last })
    ∧ ∀ (before after : List Nat) (x y : Nat), before.length + after.length = 8 → x < 10 → y < 10 → x ≠ y →
      checkDigitOf (before ++ x :: after) ≠ checkDigitOf (before ++ y :: after))
    ∧ ((∀ t : LoanTag, tagOf (tagCode t) = t) ∧ (∀ n : ImageName, imageNameOf (imageCode n) = n)
    ∧ (∀ h : Header, h.capClass < 256 → h.e < 256 → h.width < 256 → h.access < 256 → h.wear < 65536 →
      readHeaderArea (headerBytes h) = h)
    ∧ ∀ o : Offer, 1 ≤ o.items.length → o.items.length ≤ 8 → o.items.all Item.inRange = true → o.zone ≤ 999 →
      readOffer (offerBytes o) = some o)
    ∧ (∀ l : Loan, cardBits l = (bytesLE 4 l.patron.toNat ++ bytesLE 2 l.zone ++ bytesLE 4 l.order.toNat
          ++ (match l.body with
            | .cartridge _ => [0, 0, 0]
            | .braille _ _ _ part parts _ _ _ => [1, BitVec.ofNat 8 part, BitVec.ofNat 8 parts])
          ++ bcdBytes 4 (dateOf l.carded) ++ bcdBytes 4 (dateOf l.due) ++ returnFace l.card).flatMap bitsOfByte
      ∧ (cardBits l).length = 8 * (21 + 23) ∧ faceOf ((returnFace l.card).flatMap bitsOfByte) = returnFace l.card
      ∧ (returnFace l.card).length = 23
      ∧ l.card.tag = l.tag ∧ l.card.body = (match l.body with
          | .cartridge serials => .cartridge serials
          | .braille _ title set part parts first last _ => .braille title set part parts first last))
    ∧ (∀ x i : Nat, i < 8 → bcdDigit (bcdBytes 4 x) i = x / 10 ^ i % 10)
    ∧ ∀ day : Nat, day ≤ 65535 → ∃ (y m d : Nat) (feb : Nat) (months : List Nat), dateOf day = 10000 * y + 100 * m + d
      ∧ 2000 ≤ y ∧ y ≤ 2179 ∧ feb = (if y % 4 = 0 ∧ y ≠ 2100 then 29 else 28)
      ∧ months = [31, feb, 31, 30, 31, 30, 31, 31, 30, 31, 30, 31] ∧ 1 ≤ m ∧ 1 ≤ d ∧ (∃ n, months[m - 1]? = some n ∧ d ≤ n)
      ∧ day + 1 = ((List.range (y - 2000)).map (fun i => if i % 4 = 0 ∧ i ≠ 100 then 366 else 365)).sum
          + (months.take (m - 1)).sum + d

/-! ## Start-up -/

/-- R17, R45, R69, R90, R127, R144, R158, R173, R193 to R199: POWER_ON_RESET loads the settings, which stand in their
ranges whatever the configuration memory answers, writes the marker and leaves every table of records empty; the
station is Muted when its straps give 0, else Joining; each bin is Open, or Disabled with a capacity of 0, with count 0
and no tags. The image store memory stays (log 34), and phase 4 lasts while a cartridge is to be identified (log 13).
An image is good when it was read in whole and the low 16 bits of the sum of its first 157 bytes are its checksum (fewer
bytes are a bad one, log 36). With CFGSRC low, or a bad image, the defaults are loaded; ConfigFault is raised for station
number 0 first, then for a bad image, and no other. From a good image each number is clamped to its range, an enumerated
code that names nothing takes the default, and of the first rule places (their count clamped to 16) those are dropped
whose field, test or bin is not one of the manual's. -/
def Obligations.PowerOnResetEmptiesTheTables : Prop :=
  (∀ (t : Moment) (inp : ResetInputs) (s : State), ∃ u, exec (.powerOnReset t inp) s = .next u
    ∧ u.cfl.station = inp.straps ∧ u.cfl.source = inp.cfgSrc ∧ u.cfl.settings = (loadSettings inp).1
    ∧ u.cfl.marker = {
        pattern := true, station := inp.straps, source := inp.cfgSrc, loadSum := loadSum (loadSettings inp).1
        check := true }
    ∧ u.cfl.phase = (if inp.present = [] then .running else .blocks)
    ∧ u.fli.txState = (if inp.straps = 0 then .muted else .joining)
    ∧ u.fli.queue = [] ∧ u.fli.collisions = 0 ∧ u.fli.lastSender = none ∧ u.fli.sending = none
    ∧ u.au = Au.start ∧ u.wq = Wq.start ∧ u.cp = Cp.start ∧ u.shu = Shu.start ∧ u.lu = Lu.start
    ∧ u.isc.directory = [] ∧ u.isc.chains = [] ∧ u.isc.useCounter = 0 ∧ u.isc.store = s.isc.store
    ∧ u.isc.fetch0 = .idle ∧ u.isc.fetch1 = .idle ∧ u.isc.serve0 = none ∧ u.isc.serve1 = none
    ∧ u.mlc.laneList = [] ∧ u.mlc.laneOrder = [] ∧ u.mlc.sackNo = 0 ∧ u.mlc.manifest = []
    ∧ u.mlc.lane = some .dayUnknown ∧ u.mlc.writer = .idle ∧ u.pp.pause = false ∧ u.pp.slot = .idle
    ∧ u.mlc.bins = (loadSettings inp).1.binCapacity.map (fun n => {
        state := if n = 0 then .disabled else .open, capacity := n, count := 0, first := none, last := none })
    ∧ ∃ rest, u.pp.events = (if inp.straps = 0 then [.configFault .stationZero] else [])
        ++ (if inp.cfgSrc = true ∧ imageGood inp.image = false then [.configFault .checksum] else []) ++ rest
      ∧ ∀ cause, Event.configFault cause ∉ rest)
    ∧ (∀ b : List Byte, imageGood b = true ↔ 159 ≤ b.length
      ∧ ((b.take 157).map (·.toNat)).sum % 65536 = (b.getD 157 0).toNat + 256 * (b.getD 158 0).toNat)
    ∧ (∀ inp : ResetInputs, (inp.cfgSrc = false → loadSettings inp = (Settings.default, false))
      ∧ (inp.cfgSrc = true → imageGood inp.image = false → loadSettings inp = (Settings.default, true))
      ∧ ∀ (c : Settings) (v w : Nat → Nat), inp.cfgSrc = true → imageGood inp.image = true →
        (∀ i, v i = (inp.image.getD i 0).toNat) → (∀ i, w i = v i + 256 * v (i + 1)) → c = (loadSettings inp).1 →
        (loadSettings inp).2 = false
        ∧ c.dupRate = max 1 (v 0) ∧ c.fetchRate = max 1 (v 1) ∧ c.shortageCost = min 4095 (w 2)
        ∧ c.holdCost = min 65534 (w 4) ∧ c.laneCost = min 4095 (w 6) ∧ c.bidWindow = max 5 (v 8)
        ∧ c.takeWait = max 20 (min 1000 (w 9))
        ∧ c.zoneMode = (if v 11 = 1 then .inside else if v 11 = 2 then .outside else .all)
        ∧ c.zoneLo = min 999 (w 12) ∧ c.zoneHi = min 999 (w 14) ∧ c.nominalClass = min 3 (v 16)
        ∧ c.nominalE = min 4 (v 17) ∧ c.guardMode = (if v 18 = 1 then .strict else .lenient)
        ∧ c.loanDaysCart = max 1 (v 19) ∧ c.loanDaysBrl = max 1 (v 20) ∧ c.writeOffDays = max 1 (min 4095 (w 21))
        ∧ c.holdLife = max 1 (min 4095 (w 23)) ∧ c.wearLimit = max 1 (w 25) ∧ c.scrubInterval = v 27
        ∧ c.storeChunks = max 16 (min 4096 (w 28)) ∧ c.binCapacity = (List.range 12).map (fun i => v (30 + i))
        ∧ c.defaultBin = min 11 (v 42) ∧ c.overflowBin = min 11 (v 43)
        ∧ c.rules.map ruleImage = ((List.range (min 16 (v 44))).map (fun i => (inp.image.drop (45 + 7 * i)).take 7)).filter
            (fun p => decide ((p.getD 0 0).toNat ≤ 3 ∧ (p.getD 1 0).toNat ≤ 5 ∧ (p.getD 6 0).toNat ≤ 11)))
    ∧ (∀ (inp : ResetInputs) (c : Settings), c = (loadSettings inp).1 →
    (1 ≤ c.dupRate ∧ c.dupRate ≤ 255) ∧ (1 ≤ c.fetchRate ∧ c.fetchRate ≤ 255) ∧ c.shortageCost ≤ 4095
      ∧ c.holdCost ≤ 65534 ∧ c.laneCost ≤ 4095 ∧ (5 ≤ c.bidWindow ∧ c.bidWindow ≤ 255)
      ∧ (20 ≤ c.takeWait ∧ c.takeWait ≤ 1000) ∧ c.zoneLo ≤ 999 ∧ c.zoneHi ≤ 999 ∧ c.nominalClass ≤ 3
      ∧ c.nominalE ≤ 4 ∧ (1 ≤ c.loanDaysCart ∧ c.loanDaysCart ≤ 255) ∧ (1 ≤ c.loanDaysBrl ∧ c.loanDaysBrl ≤ 255)
      ∧ (1 ≤ c.writeOffDays ∧ c.writeOffDays ≤ 4095) ∧ (1 ≤ c.holdLife ∧ c.holdLife ≤ 4095)
      ∧ (1 ≤ c.wearLimit ∧ c.wearLimit ≤ 65535) ∧ c.scrubInterval ≤ 255
      ∧ (16 ≤ c.storeChunks ∧ c.storeChunks ≤ 4096) ∧ c.binCapacity.length = 12 ∧ (∀ n ∈ c.binCapacity, n ≤ 255)
      ∧ c.defaultBin ≤ 11 ∧ c.overflowBin ≤ 11 ∧ c.rules.length ≤ 16 ∧ ∀ r ∈ c.rules, r.bin ≤ 11)

/-- R199, R198: every WARM_RESET completes; the station then goes by the straps, the configuration source and the
settings that this start loads, with a marker written anew, and runs once no socket is left to be identified. One that
finds any of the five marker tests failing is a power-on start. With the marker intact, phase 3 leaves v: R127 and R116
(Assigned, Writing, Verifying and Erasing become Dirty and take new stamps, by record position, log 52; no socket), R69
(work records kept; a link to a Dirty cartridge cleared, with the load-asked mark; of the bundles of each record those
in Packing, Laned or Mailed kept, the others renewed by R52, where riding items of one that becomes Written are to be
picked, R159), R90 (entries Present, or Damaged and pinned, kept with the contents of the store), R144, R158, R173,
R184; what the line, the auctions and the rack had is lost (R17, R45, R113, R193: the rack begins anew with socket 7
last granted), the events are the ConfigFaults (R194, R195) and the PickLists of bundles renewed, and phase 4 goes on
from v, FLI not yet started (log 13). The contents of the store stay (log 34), and each bin takes the capacity of the
loaded settings and keeps the rest (log 38). Phase 4 begins with Identifying in each Empty socket found occupied;
PickList is raised again for every Pending pick, in the order of log 83, and CardFault for a card in Fault, the lane
state is set anew and a container at the gate taken as a detection (R173), the holds are served, title by title (R144,
log 72), a container at the chute is read (R184), the order of these being log 87, and with no socket found occupied
identification is complete (R113). -/
def Obligations.WarmResetGoesByTheMarker : Prop :=
  (∀ (t : Moment) (inp : ResetInputs) (s : State),
    s.cfl.marker ≠ {
        pattern := true, station := inp.straps, source := inp.cfgSrc, loadSum := loadSum (loadSettings inp).1
        check := true } →
    exec (.warmReset t inp) s = exec (.powerOnReset t inp) s)
    ∧ (∀ (t : Moment) (inp : ResetInputs) (s : State), ∃ u, exec (.warmReset t inp) s = .next u
      ∧ u.cfl = { station := inp.straps, source := inp.cfgSrc, settings := (loadSettings inp).1,
                  loadSum := loadSum (loadSettings inp).1, phase := if inp.present = [] then .running else .blocks,
                  marker := { pattern := true, station := inp.straps, source := inp.cfgSrc,
                              loadSum := loadSum (loadSettings inp).1, check := true } })
    ∧ (∀ (t : Moment) (inp : ResetInputs) (s : State), s.tablesSound →
      s.cfl.marker = {
        pattern := true, station := inp.straps, source := inp.cfgSrc, loadSum := loadSum (loadSettings inp).1
        check := true } →
      ∃ v, exec (.warmReset t inp) s = .next (startBlocks inp v)
        ∧ v.cfl = { station := inp.straps, source := inp.cfgSrc, settings := (loadSettings inp).1,
                    loadSum := loadSum (loadSettings inp).1, phase := .blocks, marker := s.cfl.marker }
        ∧ v.fli = { Fli.start (max s.clock t) (if inp.straps = 0 then .muted else .joining) with joinFrom := none }
        ∧ v.au = Au.start
        ∧ v.de = { sockets := [], writeSlot := none, readSlot := none, grant := none, lastGranted := 7,
                   unidentified := [], walkDue := false }
        ∧ v.pp.butEvents = Pp.start.butEvents
        ∧ (∃ picks, v.pp.events = (if inp.straps = 0 then [.configFault .stationZero] else [])
            ++ (if (loadSettings inp).2 = true then [.configFault .checksum] else []) ++ picks
          ∧ ∀ e ∈ picks, ∃ record item, e = .pickList record item)
        ∧ (∀ upTo : Nat → Nat, (∀ k, upTo k = (s.cp.records.filter (fun e => e.1 < k
              && [CartState.assigned, .writing, .verifying, .erasing].contains e.2.state)).length) →
            v.cp.stamp = (if upTo 512 = 0 then s.cp.stamp else min 4294967295 (s.cp.stamp + upTo 512))
            ∧ ∀ k r r', s.cp.records.at? k = some r → v.cp.records.at? k = some r' →
              r.state = .assigned ∨ r.state = .writing ∨ r.state = .verifying ∨ r.state = .erasing →
              r'.stamp = min 4294967295 (s.cp.stamp + upTo (k + 1)))
        ∧ v.cp.records.map (·.1) = s.cp.records.map (·.1)
        ∧ (∀ k r, s.cp.records.at? k = some r → ∃ r', v.cp.records.at? k = some r'
            ∧ (r.state = .assigned ∨ r.state = .writing ∨ r.state = .verifying ∨ r.state = .erasing →
                r' = { r with socket := none, state := .dirty, link := none, stamp := r'.stamp })
            ∧ (r.state ≠ .assigned → r.state ≠ .writing → r.state ≠ .verifying → r.state ≠ .erasing →
                r' = { r with socket := none }))
        ∧ v.wq.records.map (fun r => { r with bundles := [] }) = s.wq.records.map (fun r => { r with bundles := [] })
        ∧ (∀ order r, recordOf s order = some r → recordOf v order = some { r with
            bundles := r.bundles.map (fun b =>
              if b.state = .packing ∨ b.state = .laned ∨ b.state = .mailed then b
              else b.renew ((bundleCarts v order b.number).map (fun e => conditionOf e.2))) })
        ∧ v.wq.held = [] ∧ v.wq.early = []
        ∧ v.wq.plan = s.wq.plan.map (fun e =>
            if e.2.written = false ∧ (e.2.link.bind (cartOf v)).map (·.state) = some .dirty then
              (e.1, { e.2 with link := none, loadAsked := false
                               placements := (e.2.refigure (nominalG v)).placements })
            else e)
        ∧ (∀ i, dirAt v i = (dirAt s i).bind (fun e =>
            if e.state = .arriving ∨ (e.state = .damaged ∧ placementPins v e.name = 0) then none
            else some { e with source := none, fails := 0 }))
        ∧ v.isc.chains = s.isc.chains.filter (fun c => (dirAt v c.2.owner).isSome || (dirAt s c.2.owner).isNone)
        ∧ v.isc.store = s.isc.store ∧ v.isc.crcArea = s.isc.crcArea ∧ v.isc.useCounter = s.isc.useCounter
        ∧ v.isc.fetch0 = .idle ∧ v.isc.fetch1 = .idle ∧ v.isc.serve0 = none ∧ v.isc.serve1 = none
        ∧ v.isc.scrubCursor = 0 ∧ v.isc.scrubRead = none ∧ v.isc.guardDiscards = 0 ∧ v.isc.held = []
        ∧ v.shu = { s.shu with holds := s.shu.holds.map (fun h => { h with offered := none }), held := [], due := [] }
        ∧ v.lu = { s.lu with dayKnown := false, writeOffs := 0, held := [] }
        ∧ v.rti = { s.rti with chute := .idle, deadline := none, route := none, held := [] }
        ∧ v.mlc.manifest = s.mlc.manifest ∧ v.mlc.sackNo = s.mlc.sackNo ∧ v.mlc.writePos = s.mlc.writePos
        ∧ v.mlc.laneList = s.mlc.laneList ∧ v.mlc.gate = .empty
        ∧ v.mlc.bins = s.mlc.bins.zipWith (fun b c => { b with capacity := c }) (loadSettings inp).1.binCapacity
        ∧ (v.mlc.laneOrder.map (·.tag)).Perm ((s.lu.loans.filter (fun e => e.2.state == .carded)).map (·.2.tag))
        ∧ v.mlc.laneOrder.Pairwise
            (fun a b => (a.tag.serial - s.lu.nextSerial).toNat ≤ (b.tag.serial - s.lu.nextSerial).toNat)
        ∧ (∀ l ∈ v.mlc.laneOrder, l.card = (match s.mlc.laneOrder.find? (fun x => x.tag == l.tag) with
            | some x => if x.card = .writing then .fault else x.card
            | none => .fault))
        ∧ v.mlc.writer = (match v.mlc.laneOrder.find? (fun l => l.card == .fault) with
            | some l => .fault l.tag
            | none => .idle))
    ∧ ∀ (inp : ResetInputs) (s : State), ∃ (a b c : State) (picks : List Event),
      a = { s with de := { s.de with sockets := a.de.sockets
                                     unidentified := (List.finRange 8).filter (fun k => inp.present.contains k) } }
      ∧ (∀ k, socketOf a k = if k ∈ inp.present ∧ socketOf s k = none
          then some { state := .identifying, serial := none, header := none, op := none, attempt := 1, deadline := none
                      stale := false, silent := false, dirCheck := 0 } else socketOf s k)
      ∧ picks = s.wq.records.flatMap (fun r => (r.bundles.filter (fun b => b.state == .written)).flatMap (fun b =>
          (sortBy id ((b.riders.filter (fun x => x.pick == some .pending)).map (·.item))).map
            (fun i => .pickList (recordIndex s r.order) i)))
      ∧ b = (picks ++ (match s.mlc.writer with | .fault tag => [.cardFault tag] | _ => [])).foldl
          (fun u e => raise e u) a
      ∧ c = serveAll (if inp.gate = true then detect (updateLane { b with mlc := { b.mlc with lane := none } })
          else updateLane { b with mlc := { b.mlc with lane := none } })
      ∧ (inp.chute = false ∨ s.rti.chute ≠ .idle →
        startBlocks inp s = fullStage (if inp.present = [] then completeStart c else c))
      ∧ ∀ d, inp.chute = true → s.rti.chute = .idle →
        d = { c with rti := { c.rti with chute := .reading, deadline := some (c.clock + 3200000) } } →
        startBlocks inp s = fullStage (if inp.present = [] then completeStart d else d)

/-! ## The floor line -/

/-- R1, R8, R9, R14: at every end of frame content L becomes the Source of a good frame, delivered or not, and 15 at a
bad one, slot 0 begins 4 µs (128 bit times) later, and joining ends; at a bad frame nothing else of the station
changes but the line itself. A flag or an abort with no content before it ends no frame. Joining also ends when no bit
other than idle has been seen for 512 µs since the wait began, with L = 15 and slot 0 at that moment. Bits other than
idle stop that measurement, frame content the slot count too; a flag alone does not stop the count (log 30), and bits
that follow no flag are no frame (log 57). Before FLI has started nothing is heard (log 13). -/
def Obligations.FrameEndRestartsTheTurns : Prop :=
  (∀ (t : Moment) (bits : List Bool) (s : State), s.cfl.phase = .running → (splitEnding bits).1 ≠ [] →
    ∃ u, exec (.frameEnd t bits) s = .next u
      ∧ u.fli.lastSender = some (match receive bits with | some f => f.source | none => 15)
      ∧ u.fli.slotZero = some (max s.clock t + 128)
      ∧ u.fli.line = (match (splitEnding bits).2 with | .closed => .closed | .aborted => .idle)
      ∧ u.fli.joinFrom = none ∧ u.fli.txState ≠ .joining)
    ∧ (∀ (t : Moment) (bits : List Bool) (s : State), s.cfl.phase = .running → (splitEnding bits).1 ≠ [] →
      receive bits = none → exec (.frameEnd t bits) s = .next { s.at t with fli := { s.fli with
        lastSender := some 15, slotZero := some (max s.clock t + 128), line := (match (splitEnding bits).2 with | .closed => .closed | .aborted => .idle), lineOut := [], joinFrom := none,
        ownEndDue := false, txState := if s.fli.txState = .joining then .active else s.fli.txState } })
    ∧ (∀ (t : Moment) (bits : List Bool) (s : State), (splitEnding bits).1 = [] →
      exec (.frameEnd t bits) s = exec (.lineBusy t (if (splitEnding bits).2 = .closed then .flag else .quiet)) s)
    ∧ (∀ (t : Moment) (bits : List Bool) (sight : LineSight) (s : State), s.cfl.phase = .blocks →
      exec (.frameEnd t bits) s = .next (s.at t) ∧ exec (.lineBusy t sight) s = .next (s.at t))
    ∧ (∀ (t j : Moment) (s : State), s.fli.txState = .joining → s.cfl.phase = .running → s.fli.joinFrom = some j →
      j + 16384 ≤ max s.clock t →
      exec (.joiningQuietTimeout t) s = .next { s.at t with fli := { s.fli with
        txState := .active, lastSender := some 15, slotZero := some (j + 16384), joinFrom := none } })
    ∧ (∀ (t : Moment) (s : State),
      (s.fli.txState ≠ .joining ∨ ∀ j, s.fli.joinFrom = some j → max s.clock t < j + 16384) →
      exec (.joiningQuietTimeout t) s = .next (s.at t))
    ∧ ∀ (t : Moment) (s : State), s.cfl.phase = .running →
      (s.fli.line = .idle ∨ s.fli.line = .closed ∨ s.fli.line = .stray →
        exec (.lineBusy t .flag) s = .next { s.at t with fli := { s.fli with line := .flagged, joinFrom := none } })
      ∧ (s.fli.line = .flagged ∨ s.fli.line = .closed →
        exec (.lineBusy t .content) s
          = .next { s.at t with fli := { s.fli with line := .content, slotZero := none, joinFrom := none } })
      ∧ (s.fli.line = .idle →
        exec (.lineBusy t .content) s = .next { s.at t with fli := { s.fli with line := .stray, joinFrom := none } })
      ∧ (s.fli.line = .flagged ∨ s.fli.line = .closed ∨ s.fli.line = .stray →
        exec (.lineBusy t .quiet) s = .next { s.at t with fli := { s.fli with line := .idle } })
      ∧ (s.fli.line = .flagged ∨ s.fli.line = .content → exec (.lineBusy t .flag) s = .next (s.at t))
      ∧ (s.fli.line = .content ∨ s.fli.line = .stray → exec (.lineBusy t .content) s = .next (s.at t))
      ∧ (s.fli.line = .idle ∨ s.fli.line = .content → exec (.lineBusy t .quiet) s = .next (s.at t))

/-- R5, R6: a good frame that the station did not send itself and that is for another station, or has a kind byte that
names no kind, or is an OFFER, CANCEL or DAY of another station than the desk, goes to no block. Any other goes, at
the restarted turn count (R8), to the blocks of its kind and to no other, and the station goes on from there; what
each kind does there is stated below, kind by kind. -/
def Obligations.GoodFramesReachTheirBlocks : Prop :=
  ∀ (t : Moment) (bits : List Bool) (f : Received) (s r : State), s.cfl.phase = .running → receive bits = some f →
    f.source ≠ s.cfl.station →
    r = { s.at t with fli := { s.fli with
        lastSender := some f.source, slotZero := some (max s.clock t + 128), line := .closed, lineOut := [], joinFrom := none,
        ownEndDue := false, txState := if s.fli.txState = .joining then .active else s.fli.txState } } →
    ((f.dest ≠ s.cfl.station.toNat ∧ f.dest ≠ 255) ∨ f.kind = 0 ∨ 13 < f.kind ∨ (f.kind ≤ 3 ∧ f.source ≠ 0) →
      exec (.frameEnd t bits) s = .next r)
    ∧ (f.dest = s.cfl.station.toNat ∨ f.dest = 255 →
      (f.kind = 1 → f.source = 0 → exec (.frameEnd t bits) s = .next (fullStage (hearOffer f r)))
      ∧ (f.kind = 2 → f.source = 0 → exec (.frameEnd t bits) s = .next (fullStage (hearCancel f r)))
      ∧ (f.kind = 3 → f.source = 0 → exec (.frameEnd t bits) s = .next (fullStage (hearDay f r)))
      ∧ (f.kind = 4 → exec (.frameEnd t bits) s = .next (fullStage (hearBid f r)))
      ∧ (f.kind = 5 → exec (.frameEnd t bits) s = .next (fullStage (hearTake f r)))
      ∧ (f.kind = 6 → exec (.frameEnd t bits) s = .next (fullStage (hearClosed f r)))
      ∧ (f.kind = 7 → exec (.frameEnd t bits) s = .next (fullStage (hearReturn f r)))
      ∧ (f.kind = 8 → exec (.frameEnd t bits) s = .next (fullStage (hearAvailable f r)))
      ∧ (f.kind = 9 → exec (.frameEnd t bits) s = .next (fullStage (hearHandover f r)))
      ∧ (f.kind = 10 → exec (.frameEnd t bits) s = .next (fullStage (hearRefuse f r)))
      ∧ (f.kind = 11 → exec (.frameEnd t bits) s = .next (fullStage (hearFetch f r)))
      ∧ (f.kind = 12 → exec (.frameEnd t bits) s = .next (fullStage (hearInfo f r)))
      ∧ (f.kind = 13 → exec (.frameEnd t bits) s = .next (fullStage (hearImage f r))))
    ∧ (hearOffer f r).wq = r.wq ∧ (hearOffer f r).isc = r.isc ∧ (hearOffer f r).shu = r.shu ∧ (hearOffer f r).lu = r.lu
    ∧ (hearDay f r).au = r.au ∧ (hearDay f r).isc = r.isc ∧ (hearDay f r).mlc = r.mlc ∧ (hearDay f r).rti = r.rti
    ∧ (hearBid f r).wq = r.wq ∧ (hearBid f r).shu = r.shu ∧ (hearBid f r).lu = r.lu ∧ (hearBid f r).fli = r.fli
    ∧ (hearReturn f r).au = r.au ∧ (hearReturn f r).wq = r.wq ∧ (hearReturn f r).isc = r.isc ∧ (hearReturn f r).shu = r.shu
    ∧ (hearAvailable f r).au = r.au ∧ (hearAvailable f r).wq = r.wq ∧ (hearAvailable f r).lu = r.lu
    ∧ (hearHandover f r).au = r.au ∧ (hearHandover f r).isc = r.isc ∧ (hearHandover f r).lu = r.lu
    ∧ (hearRefuse f r).au = r.au ∧ (hearRefuse f r).isc = r.isc ∧ (hearRefuse f r).lu = r.lu
    ∧ (hearFetch f r).au = r.au ∧ (hearFetch f r).wq = r.wq ∧ (hearFetch f r).shu = r.shu ∧ (hearFetch f r).lu = r.lu
    ∧ (hearInfo f r).au = r.au ∧ (hearInfo f r).lu = r.lu ∧ (hearImage f r).au = r.au ∧ (hearImage f r).lu = r.lu
    ∧ (hearTake f r).lu.loans = r.lu.loans ∧ (hearClosed f r).lu.loans = r.lu.loans
    ∧ (hearCancel f r).lu.loans = r.lu.loans

/-- R7, R40, R83, R85: a good frame with the own Source that the station did not send mutes it: nothing is on the line or
in the control queue, no auction stands, no block holds a frame, both serve streams have ended, both fetch streams are
Idle and the entries that they filled are free; from then on nothing offered is queued. A further one while Muted changes
nothing but the turn count. -/
def Obligations.NumberClashMutes : Prop :=
  (∀ (t : Moment) (bits : List Bool) (f : Received) (s : State), s.cfl.phase = .running → receive bits = some f →
    f.source = s.cfl.station → s.fli.ownEndDue = false → s.fli.txState ≠ .muted →
    ∃ u, exec (.frameEnd t bits) s = .next u ∧ u.fli.txState = .muted ∧ u.fli.sending = none ∧ u.fli.lineOut = []
      ∧ u.fli.queue = [] ∧ u.au.entries = [] ∧ (∀ b, heldOf b u = []) ∧ u.wq.early = []
      ∧ u.isc.serve0 = none ∧ u.isc.serve1 = none ∧ u.isc.fetch0 = .idle ∧ u.isc.fetch1 = .idle
      ∧ (∀ x i, (fetchOf s x).entry = some i → dirAt u i = none)
      ∧ (s.pp.events.length < 32 → Event.numberClash ∈ u.pp.events))
    ∧ ∀ (t : Moment) (bits : List Bool) (f : Received) (s : State), s.cfl.phase = .running → receive bits = some f →
      f.source = s.cfl.station → (s.fli.ownEndDue = true ∨ s.fli.txState = .muted) →
      exec (.frameEnd t bits) s = .next (restartTurns .closed f.source (s.at t))

/-- R9, R10, R11: TURN_SLOT at the beginning of slot n, a slot of the station's own, while it is Active, the line
quiet and nothing being sent: the head of the control queue begins, else the IMAGE frame of a ready serve stream, by
the image alternation when both are ready; with nothing ready, or in a slot of another station, nothing begins. (The
station acts at the first moment of its slot, log 44.) -/
def Obligations.OwnSlotBeginsTheNextFrame : Prop :=
  (∀ (t z n : Nat) (l : Station) (f : Frame) (rest : List Frame) (s : State), s.fli.txState = .active →
    s.fli.line.quiet = true → s.fli.sending = none → s.fli.lastSender = some l → s.fli.slotZero = some z →
    max s.clock t = z + 64 * n → BitVec.ofNat 4 n = s.cfl.station - l - 1 → s.fli.queue = f :: rest →
    exec (.turnSlot t) s = .next { s.at t with fli := { s.fli with
      sending := some .control, ownEndDue := true, line := .content, slotZero := none,
      lineOut := lineBits s.cfl.station f } })
    ∧ (∀ (t z n : Nat) (l : Station) (x : StreamNo) (v : ServeStream) (s : State), s.fli.txState = .active →
      s.fli.line.quiet = true → s.fli.sending = none → s.fli.lastSender = some l → s.fli.slotZero = some z →
      max s.clock t = z + 64 * n → BitVec.ofNat 4 n = s.cfl.station - l - 1 → s.fli.queue = [] →
      serveReady s x = true → (serveReady s (otherStream x) = true → s.fli.alternation = x) → serveOf s x = some v →
      ∃ u, exec (.turnSlot t) s = .next u ∧ u.fli = { s.fli with
          sending := some (.image x), ownEndDue := true, line := .content, slotZero := none,
          lineOut := lineBits s.cfl.station (serveFrame v) }
        ∧ serveOf u x = some { v with onLine := true } ∧ serveOf u (otherStream x) = serveOf s (otherStream x)
        ∧ u.isc.directory = s.isc.directory ∧ u.isc.store = s.isc.store ∧ u.au = s.au ∧ u.wq = s.wq ∧ u.pp = s.pp)
    ∧ (∀ (t : Moment) (s : State), s.fli.queue = [] → serveReady s 0 = false → serveReady s 1 = false →
      exec (.turnSlot t) s = .next (s.at t))
    ∧ (∀ (t z : Nat) (l : Station) (s : State), s.fli.lastSender = some l → s.fli.slotZero = some z →
      (∀ n, max s.clock t = z + 64 * n → BitVec.ofNat 4 n ≠ s.cfl.station - l - 1) →
      exec (.turnSlot t) s = .next (s.at t))
    ∧ ∀ (t : Moment) (s : State), (s.fli.txState ≠ .active ∨ s.fli.line.quiet = false ∨ s.fli.sending ≠ none) →
      exec (.turnSlot t) s = .next (s.at t)

/-- R12, R16, R13, R32, R11: a collision aborts the frame, counts (stopping at 65535) and leaves the frame where it was:
a control frame at the head of the queue, an IMAGE frame as the next of its stream; a head whose BID was withdrawn
meanwhile leaves the queue. A control frame that is complete leaves the queue; a complete BID makes the own BID of its
order Sent, a complete FETCH lets the silence timer of the stream that asked run, 500 ms long (R78), while a stream that
is not Asking, its run having been opened by a late INFO, stays as it was, its timer neither started nor restarted (the
model's choice, log 79), a complete INFO lets the serve stream of its requester and image send (R85; how the two are
known is the model's choice, log 84), and a frame of another kind changes nothing else. A complete IMAGE frame turns the
image alternation to the other stream, and its serve stream goes on to the next slice, to the first of the next sector,
or ends after the last slice of its run (R85). No block holds a refused frame where a clause frees an entry (R15 gives
what follows when one does). -/
def Obligations.SendingEndsByCollisionOrCompletion : Prop :=
  ((∀ (t : Moment) (s : State), s.fli.sending = some .control → s.fli.withdrawHead = false →
    exec (.collision t) s = .next { s.at t with fli := { s.fli with
      sending := none, ownEndDue := false, lineOut := abortBits, collisions := min 65535 (s.fli.collisions + 1) } })
    ∧ (∀ (t : Moment) (x : StreamNo) (v : ServeStream) (s : State), s.fli.sending = some (.image x) →
      serveOf s x = some v →
      ∃ u, exec (.collision t) s = .next u ∧ serveOf u x = some { v with onLine := false }
        ∧ u.fli = { s.fli with sending := none, ownEndDue := false, lineOut := abortBits,
                               collisions := min 65535 (s.fli.collisions + 1) }
        ∧ serveOf u (otherStream x) = serveOf s (otherStream x) ∧ u.isc.directory = s.isc.directory
        ∧ u.isc.store = s.isc.store ∧ u.au = s.au ∧ u.wq = s.wq ∧ u.pp = s.pp)
    ∧ (∀ (t : Moment) (f : Frame) (rest : List Frame) (s : State), s.fli.sending = some .control →
      s.fli.withdrawHead = true → s.fli.queue = f :: rest → (∀ b, heldOf b s = []) →
      exec (.collision t) s = .next { s.at t with fli := { s.fli with
        sending := none, ownEndDue := false, lineOut := abortBits, collisions := min 65535 (s.fli.collisions + 1),
        queue := rest, withdrawHead := false } })
    ∧ ∀ (t : Moment) (s : State), s.fli.sending = none → exec (.collision t) s = .next (s.at t))
    ∧ ((∀ (t : Moment) (f : Frame) (rest : List Frame) (s : State), s.fli.sending = some .control →
    s.fli.queue = f :: rest → (∀ b, heldOf b s = []) →
    ∃ u, exec (.frameComplete t) s = .next u
      ∧ u.fli = { s.fli with sending := none, lineOut := [], withdrawHead := false, queue := rest }
      ∧ u.wq = s.wq ∧ u.de = s.de ∧ u.cp = s.cp ∧ u.shu = s.shu ∧ u.lu = s.lu ∧ u.mlc = s.mlc ∧ u.rti = s.rti
      ∧ u.pp = s.pp ∧ u.isc.directory = s.isc.directory ∧ u.isc.store = s.isc.store
      ∧ (f.kind ≠ .bid → u.au = s.au) ∧ (f.kind ≠ .fetch → f.kind ≠ .info → u.isc = s.isc)
      ∧ (f.kind = .bid → auctionOf u f.subject = (auctionOf s f.subject).map (fun e => { e with ownBid := .sent }))
      ∧ (f.kind = .fetch → ∀ (x : StreamNo) (asked : Prop), (asked ↔ ∃ name source, (fetchOf s x).state = .asking
            ∧ (fetchOf s x).image = some name ∧ f.subject = BitVec.ofNat 32 (imageCode name)
            ∧ streamSource s x = some source ∧ f.dest = source.setWidth 8) →
          (asked → fetchOf u x = { fetchOf s x with silence := some (max s.clock t + 16000000) })
          ∧ (¬ asked → fetchOf u x = fetchOf s x) ∧ serveOf u x = serveOf s x)
      ∧ (f.kind = .info → ∀ (x : StreamNo),
          (∀ w, serveOf s x = some w → f.subject = BitVec.ofNat 32 (imageCode w.name) →
            f.dest = w.requester.setWidth 8 → serveOf u x = some { w with infoSent := true })
          ∧ (∀ w, serveOf s x = some w → f.subject ≠ BitVec.ofNat 32 (imageCode w.name)
            ∨ f.dest ≠ w.requester.setWidth 8 → serveOf u x = some w)
          ∧ (serveOf s x = none → serveOf u x = none) ∧ fetchOf u x = fetchOf s x))
    ∧ (∀ (t : Moment) (x : StreamNo) (s : State), s.fli.sending = some (.image x) →
      ∃ u, exec (.frameComplete t) s = .next u
        ∧ u.fli.butQueue = { s.fli with sending := none, lineOut := [], alternation := otherStream x, queue := [] }
        ∧ serveOf u (otherStream x) = serveOf s (otherStream x)
        ∧ (∀ w, serveOf s x = some w → w.onLine = true →
            (w.slice < 63 → serveOf u x = some { w with slice := w.slice + 1, ready := none, onLine := false })
            ∧ (63 ≤ w.slice → w.sector + 1 < w.runEnd →
                serveOf u x = some { w with sector := w.sector + 1, slice := 0, ready := none, onLine := false })
            ∧ (63 ≤ w.slice → w.runEnd ≤ w.sector + 1 → serveOf u x = none))
        ∧ u.au = s.au ∧ u.lu = s.lu ∧ u.mlc = s.mlc ∧ u.rti = s.rti ∧ u.isc.store = s.isc.store)
    ∧ ∀ (t : Moment) (s : State), s.fli.sending = none → exec (.frameComplete t) s = .next (s.at t))

/-- R7, R15: the control queue takes a BID while 11 or fewer entries are occupied and another frame while 15 or fewer
are, at its tail; a refused frame stays with its block, behind those it already holds; while Muted every frame is taken
and discarded. R15, R137: when an entry becomes free every block that holds a refused frame offers its oldest again, in
some order (log 8), and the table decides; an accepted TAKE of AU lets the CLOSED that waited for it go (R54, log 40);
an AVAILABLE is offered with the free copies of that moment, and dropped with its mark when there is none (the next
marked entry, the lowest (log 91), is then announced, log 58). R137: SHU announces the marked entries, the lowest
position first, until an AVAILABLE is refused; an entry without a free copy loses its mark; while paused, or while an
AVAILABLE is held, nothing is announced. -/
def Obligations.ControlQueueTakesOrRefuses : Prop :=
  (∀ (b : Producer) (f : Frame) (s : State),
    (s.fli.txState = .muted → (offerFrame b f s).fli = s.fli ∧ heldOf b (offerFrame b f s) = heldOf b s)
    ∧ (s.fli.txState ≠ .muted → s.fli.queue.length ≤ (if f.kind = .bid then 11 else 15) →
      (offerFrame b f s).fli = { s.fli with queue := s.fli.queue ++ [f] }
        ∧ heldOf b (offerFrame b f s) = heldOf b s)
    ∧ (s.fli.txState ≠ .muted → (if f.kind = .bid then 11 else 15) < s.fli.queue.length →
      offerFrame b f s = setHeld b (heldOf b s ++ [f]) s))
    ∧ (∀ s : State, ∃ bs : List Producer, bs.Nodup ∧ (∀ b, b ∈ bs ↔ heldOf b s ≠ [])
      ∧ entryFreed s = bs.foldl (fun s b => offerAgain b s)
          { s with raceCount := if 2 ≤ bs.length then s.raceCount + 1 else s.raceCount })
    ∧ (∀ (b : Producer) (s : State), heldOf b s = [] → offerAgain b s = s)
    ∧ (∀ (b : Producer) (f : Frame) (rest : List Frame) (s g : State), heldOf b s = f :: rest →
      (b = .shu → f.kind ≠ .available) → s.fli.txState ≠ .muted →
      g = setHeld b rest { s with fli := { s.fli with queue := s.fli.queue ++ [f] } } →
      ((if f.kind = .bid then 11 else 15) < s.fli.queue.length → offerAgain b s = s)
      ∧ (f.kind ≠ .bid → f.kind ≠ .available → (b = .au → f.kind ≠ .take) → s.fli.queue.length ≤ 15 → offerAgain b s = g)
      ∧ (f.kind = .bid → s.fli.queue.length ≤ 11 → offerAgain b s = { g with au := { g.au with
          entries := g.au.entries.map (fun e => if e.2.order = f.subject then (e.1, { e.2 with ownBid := .queued }) else e) } })
      ∧ ∀ waited, b = .au → f.kind = .take → s.fli.queue.length ≤ 15 →
        waited = s.wq.early.filter (fun x => x.subject == f.subject) →
        (∀ x ∈ waited, x.kind ≠ .bid ∧ x.kind ≠ .available) →
        ((∃ x ∈ rest, x.kind = .take ∧ x.subject = f.subject ∧ x.detail = 255) → offerAgain b s = g)
        ∧ ((∀ x ∈ rest, x.kind = .take → x.subject = f.subject → x.detail ≠ 255) →
          (s.fli.queue.length + 1 + waited.length ≤ 16 → offerAgain b s = { g with
            fli := { s.fli with queue := s.fli.queue ++ f :: waited }
            wq := { s.wq with early := s.wq.early.filter (fun x => x.subject != f.subject) } })
          ∧ (s.fli.queue.length = 15 → offerAgain b s = { g with wq := { s.wq with
              held := s.wq.held ++ waited, early := s.wq.early.filter (fun x => x.subject != f.subject) } })))
    ∧ (∀ (f : Frame) (rest : List Frame) (title : Title) (s c : State), s.shu.held = f :: rest → f.kind = .available →
      title = BitVec.ofNat 24 f.subject.toNat →
      c = { s with shu := { s.shu with
        held := rest
        shelf := s.shu.shelf.map (fun e => if e.2.title = title then (e.1, { e.2 with mark := false }) else e) } } →
      (s.pp.pause = true → offerAgain .shu s = s)
      ∧ (s.pp.pause = false → freeCopies s title = 0 → offerAgain .shu s = announce c)
      ∧ (s.pp.pause = false → 0 < freeCopies s title → s.fli.txState ≠ .muted → s.fli.queue.length ≤ 15 →
        offerAgain .shu s = announce { c with fli := { s.fli with
          queue := s.fli.queue ++ [availableFrame title (freeCopies s title)] } })
      ∧ (0 < freeCopies s title → s.fli.txState ≠ .muted → 15 < s.fli.queue.length → offerAgain .shu s = s))
    ∧ ∀ s : State, (s.pp.pause = true ∨ (∃ f ∈ s.shu.held, f.kind = .available) ∨ (∀ e ∈ s.shu.shelf, e.2.mark = false) →
        announce s = s)
      ∧ ∀ (before after : Table ShelfEntry) (p : Nat) (e : ShelfEntry) (c : State), s.pp.pause = false →
        (∀ f ∈ s.shu.held, f.kind ≠ .available) → s.shu.shelf = before ++ (p, e) :: after →
        (∀ x ∈ before, x.2.mark = false) → e.mark = true → shelfOf s e.title = some e →
        c = { s with shu := { s.shu with
          shelf := s.shu.shelf.map (fun x => if x.2.title = e.title then (x.1, { x.2 with mark := false }) else x) } } →
        (e.onShelf ≤ e.reserved ∨ s.fli.txState = .muted → announce s = announce c)
        ∧ (e.reserved < e.onShelf → s.fli.txState ≠ .muted → s.fli.queue.length ≤ 15 →
          announce s = announce { c with fli := { s.fli with
            queue := s.fli.queue ++ [availableFrame e.title (e.onShelf - e.reserved)] } })
        ∧ (e.reserved < e.onShelf → s.fli.txState ≠ .muted → 15 < s.fli.queue.length →
          announce s = { s with shu := { s.shu with
            held := s.shu.held ++ [availableFrame e.title (e.onShelf - e.reserved)] } })

/-! ## Offers, bids and takes -/

/-- R19 to R22, R25, R32, R15: a malformed OFFER, which is one that R20's list names, is
counted and nothing else; one on which the station may not bid, for one of the reasons of R21 (8 bundles hold 32
cartridges), changes nothing; on any other, on which none of them holds, an entry in Bidding is made with the cost, key
and flags of this moment, and its BID is offered: it joins the control queue while 11 or fewer entries are occupied, and
is held at AU while 12 or more are. The copies bits and the count of the hold test are those of R25: the braille items
of one title draw in item order on its copies on shelf less those reserved. The images bits are the audio items with a
Present entry (R32). -/
def Obligations.OfferIsBidOnOrForgotten : Prop :=
  (∀ (p : List Byte) (b : Nat → Nat) (n : Nat), (∀ i, b i = (p.getD i 0).toNat) → n = b 7 →
    (readOffer p = none ↔ n < 1 ∨ 8 < n ∨ p.length ≠ 8 + 7 * n ∨ (∃ i, i < n ∧ 1 < b (8 + 7 * i))
      ∨ (∃ i x, i < n ∧ b (8 + 7 * i) = 0 ∧ x = b (13 + 7 * i) + 256 * b (14 + 7 * i) ∧ (x < 1 ∨ 16383 < x))
      ∨ (∃ i x, i < n ∧ b (8 + 7 * i) = 1 ∧ x = b (13 + 7 * i) + 256 * b (14 + 7 * i) ∧ (x < 1 ∨ 12 < x))
      ∨ 999 < b 4 + 256 * b 5 ∨ 1 < b 6))
    ∧ (∀ (f : Received) (s : State), readOffer f.payload = none →
    hearOffer f s = { s with au := { s.au with malformed := min 65535 (s.au.malformed + 1) } })
    ∧ (∀ (f : Received) (o : Offer) (s : State), readOffer f.payload = some o →
      (s.pp.pause = true ∨ s.fli.txState = .muted ∨ (auctionOf s f.subject).isSome ∨ (recordOf s f.subject).isSome
        ∨ 16 ≤ s.au.entries.length ∨ 32 ≤ s.wq.records.length ∨ 128 < s.shu.holds.length + withoutFreeCopy s o
        ∨ 128 < s.wq.plan.length + (offerPlan s o).length ∧ (offerPlan s o) ≠ []
        ∨ 32 < (offerPlan s o).length
        ∨ s.cfl.settings.zoneMode = .inside ∧ (o.zone < s.cfl.settings.zoneLo ∨ s.cfl.settings.zoneHi < o.zone)
        ∨ s.cfl.settings.zoneMode = .outside ∧ (s.cfl.settings.zoneLo ≤ o.zone ∧ o.zone ≤ s.cfl.settings.zoneHi)) →
      hearOffer f s = s)
    ∧ (∀ (o : Offer) (s : State),
      (∀ title e, shelfOf s title = some e → freeCopies s title = e.onShelf - e.reserved)
      ∧ (∀ title, shelfOf s title = none → freeCopies s title = 0)
      ∧ (∀ i, i ∈ withFreeCopy s o ↔ ∃ x, o.items[i]? = some x ∧ x.kind = .braille
          ∧ ((o.items.take i).filter (fun y => y.kind == .braille && y.title == x.title)).length < freeCopies s x.title)
      ∧ (withFreeCopy s o).Pairwise (· < ·)
      ∧ withoutFreeCopy s o = (o.items.filter (fun x => x.kind == .braille)).length - (withFreeCopy s o).length
      ∧ (∀ i, i < 8 → ((bidFlags s o).images.getLsbD i = true ↔ ∃ x e, o.items[i]? = some x ∧ x.kind = .audio
          ∧ entryOf s x.image = some e ∧ e.state = .present))
      ∧ (∀ i, i < 8 → ((bidFlags s o).copies.getLsbD i = true ↔ i ∈ withFreeCopy s o))
      ∧ (bidFlags s o).cartridges = BitVec.ofNat 8 (offerPlan s o).length)
    ∧ ∀ (f : Received) (o : Offer) (s : State) (b : Frame), readOffer f.payload = some o → s.pp.pause = false →
      s.fli.txState ≠ .muted → auctionOf s f.subject = none → recordOf s f.subject = none →
      s.au.entries.length < 16 → s.wq.records.length < 32 → s.shu.holds.length + withoutFreeCopy s o ≤ 128 →
      s.wq.plan.length + (offerPlan s o).length ≤ 128 ∨ offerPlan s o = [] → (offerPlan s o).length ≤ 32 →
      (s.cfl.settings.zoneMode = .inside → s.cfl.settings.zoneLo ≤ o.zone ∧ o.zone ≤ s.cfl.settings.zoneHi) →
      (s.cfl.settings.zoneMode = .outside → o.zone < s.cfl.settings.zoneLo ∨ s.cfl.settings.zoneHi < o.zone) →
      Table.wf 16 s.au.entries = true →
      b = { dest := 255, kind := .bid, subject := f.subject, detail := 0,
            payload := [BitVec.ofNat 8 (bidCost s o), BitVec.ofNat 8 (bidCost s o / 256),
              BitVec.ofNat 8 (keyOf (own s) f.subject).toNat, (bidFlags s o).images, (bidFlags s o).copies,
              (bidFlags s o).cartridges] } →
      ∃ u, hearOffer f s = u
        ∧ (s.fli.queue.length ≤ 11 → u.fli = { s.fli with queue := s.fli.queue ++ [b] } ∧ u.au.held = s.au.held)
        ∧ (12 ≤ s.fli.queue.length → u.fli = s.fli ∧ u.au.held = s.au.held ++ [b])
        ∧ (∃ e, auctionOf u f.subject = some e ∧ e.offer = o ∧ e.state = .bidding
            ∧ e.ownBid = (if s.fli.queue.length ≤ 11 then .queued else .held)
            ∧ e.cost = bidCost s o ∧ e.key = keyOf (own s) f.subject ∧ e.flags = bidFlags s o ∧ e.heard = []
            ∧ e.windowDeadline = s.clock + 32000 * s.cfl.settings.bidWindow ∧ e.takeDeadline = none ∧ e.rank = none)
        ∧ (∀ order, order ≠ f.subject → auctionOf u order = auctionOf s order)
        ∧ u.au.malformed = s.au.malformed ∧ u.au.declined = s.au.declined ∧ u.wq = s.wq ∧ u.isc = s.isc
        ∧ u.shu = s.shu ∧ u.de = s.de ∧ u.cp = s.cp ∧ u.lu = s.lu ∧ u.mlc = s.mlc ∧ u.rti = s.rti ∧ u.pp = s.pp
        ∧ u.cfl = s.cfl

/-- R26 to R30: the cost of a bid is the sum of the queue, fetch, shortage, hold and lane terms, each of them and the
sum saturating at 65534. An Arriving image whose size is not known counts with the OFFER's figure (DEDUCED, log 12).
R23, R24: the fill plan walks the audio items in order: one that fits goes on the current cartridge (8 placements leave
no free space), else on a new one, and one longer than a whole cartridge is split over new ones, every part but the last
as long as a cartridge takes; the cartridges with a placement are those of the plan. R26: the backlog is the sum of the
padded lengths of all planned cartridges not written, with the erase group of the linked cartridge, else the nominal
one. -/
def Obligations.BidCostSumsItsTerms : Prop :=
  (∀ (k g : Nat) (runs : List Run) (l : Layout), l = runs.foldl (Layout.add k g) ⟨[], [], g⟩ →
    fillPlan k g runs = (((if l.cur = [] then l.closed else l.cur :: l.closed)).map List.reverse).reverse)
    ∧ (∀ (k g pad u n : Nat) (r : Run) (l : Layout) (shut : List (List Placement)), 0 < g → g < k →
      pad = (r.len + g - 1) / g * g → u = k - g → n = (r.len + u - 1) / u →
      shut = (if l.cur = [] then l.closed else l.cur :: l.closed) →
      (l.cur.length < 8 → pad ≤ k - l.next → Layout.add k g l r = {
        closed := l.closed, next := l.next + pad
        cur := { item := r.item, part := 0, imageStart := r.start, length := r.len, cartStart := l.next } :: l.cur })
      ∧ (8 ≤ l.cur.length ∨ k - l.next < pad → pad ≤ u → Layout.add k g l r = {
        closed := shut, next := g + pad
        cur := [{ item := r.item, part := 0, imageStart := r.start, length := r.len, cartStart := g }] })
      ∧ (8 ≤ l.cur.length ∨ k - l.next < pad → u < pad → Layout.add k g l r = {
        closed := ((List.range (n - 1)).map (fun i => [{
          item := r.item, part := i, imageStart := r.start + i * u, length := u, cartStart := g }])).reverse ++ shut
        next := g + (r.len - (n - 1) * u + g - 1) / g * g
        cur := [{ item := r.item, part := n - 1, imageStart := r.start + (n - 1) * u, length := r.len - (n - 1) * u
                  cartStart := g }] }))
    ∧ ∀ (s : State) (o : Offer),
      offerPlan s o = fillPlan (capacityOf s.cfl.settings.nominalClass) (2 ^ s.cfl.settings.nominalE)
          ((o.items.zipIdx.filter (fun x => x.1.kind == .audio)).map (fun x => {
            item := x.2, start := 0, len := (entryOf s x.1.image).elim x.1.amount (fun e =>
              if e.size = 0 then x.1.amount else e.size) }))
      ∧ backlog s = ((s.wq.plan.filter (fun e => !e.2.written)).map (fun e =>
          (e.2.placements.map (fun p => ((p.length + 2 ^ ((e.2.link.bind (cartOf s)).elim s.cfl.settings.nominalE (·.e)) - 1)
              / 2 ^ ((e.2.link.bind (cartOf s)).elim s.cfl.settings.nominalE (·.e))
            * 2 ^ ((e.2.link.bind (cartOf s)).elim s.cfl.settings.nominalE (·.e))))).sum)).sum
      ∧ paddedSum (nominalG s) (offerPlan s o) = ((offerPlan s o).flatten.map (fun p =>
          (p.length + 2 ^ s.cfl.settings.nominalE - 1) / 2 ^ s.cfl.settings.nominalE * 2 ^ s.cfl.settings.nominalE)).sum
      ∧
    bidCost s o = min 65534 (queueTerm s o + fetchTerm s o + shortageTerm s o + holdTerm s o + laneTerm s)
      ∧ queueTerm s o
          = min 65534 (ceilDiv (backlog s + paddedSum (nominalG s) (offerPlan s o)) s.cfl.settings.dupRate)
      ∧ shortageTerm s o = min 65534 (((offerPlan s o).length
          - (countState s .ready + countState s .blank - unassignedCount s)) * s.cfl.settings.shortageCost)
      ∧ holdTerm s o = min 65534 (withoutFreeCopy s o * s.cfl.settings.holdCost)
      ∧ laneTerm s = (if s.mlc.lane = none then 0 else s.cfl.settings.laneCost)
      ∧ fetchTerm s o = min 65534 (((o.items.filter (fun i => i.kind == .audio)).map (fun i =>
          ceilDiv ((entryOf s i.image).elim i.amount (fun e =>
            if e.state = .present then 0
            else if e.state = .arriving then (if e.size = 0 then i.amount else e.size) - e.complete
            else i.amount)) s.cfl.settings.fetchRate)).sum)

/-- R31: the tiebreak key is (station − n) mod 16, so different stations have different keys for one order; of two
bids the lower cost goes first, at equal cost the lower key, and against an equal bid or TAKE the station yields: its
rank counts the bid, and it abandons an order for which it hears a TAKE equal to its own. -/
def Obligations.PrecedenceIsByCostThenKey : Prop :=
  (∀ (station : Station) (order : OrderSerial),
    (keyOf station order).toNat = (station.toNat + 16 - order.toNat % 16) % 16)
    ∧ (∀ (a b : Station) (order : OrderSerial), a ≠ b → keyOf a order ≠ keyOf b order)
    ∧ (∀ (c d : Nat) (j k : BitVec 4), goesBefore (c, j) (d, k) = true ↔ c < d ∨ (c = d ∧ j.toNat < k.toNat))
    ∧ (∀ p q : Nat × BitVec 4, p ≠ q → (goesBefore p q = true ↔ goesBefore q p = false))
    ∧ (∀ e : AuctionEntry, ownRank e
        = (e.heard.filter (fun h => goesBefore (h.cost, h.key) (e.cost, e.key) || (h.cost, h.key) == (e.cost, e.key))).length)
    ∧ ∀ (f : Received) (p : Nat × BitVec 4) (s : State), takenRecordOf s f.subject = some p → readPrice f = some p →
      compareTake f s = abandonOrder f.subject s

/-- R33, R77: a well-formed BID for an order with an entry in Bidding stands last in its heard-bid list, in place of an
earlier one of the same station; an entry in AwaitingTake keeps its list. A fetch stream with a candidate list whose
image the BID flags for that order takes the station in before station 0; one that waits for a directory entry has no
list yet and takes none in (the model's choice, log 59). Nothing else changes, and a BID of another length, with a cost
above 65534 or a key that is not its Source's, or for an order that is not on the table, changes nothing. -/
def Obligations.HeardBidsAreRecorded : Prop :=
  (∀ (f : Received) (c0 c1 k im co ca : Byte) (e : AuctionEntry) (s : State), f.payload = [c0, c1, k, im, co, ca] →
    c0.toNat + 256 * c1.toNat ≤ 65534 → k.toNat = (keyOf f.source f.subject).toNat → auctionOf s f.subject = some e →
    ∃ u, hearBid f s = u
      ∧ auctionOf u f.subject = some (if e.state = .bidding then { e with
          heard := e.heard.filter (fun h => h.station != f.source) ++ [{
            station := f.source, cost := c0.toNat + 256 * c1.toNat, key := keyOf f.source f.subject
            flags := { images := im, copies := co, cartridges := ca } }] } else e)
      ∧ (∀ order, order ≠ f.subject → auctionOf u order = auctionOf s order)
      ∧ (∀ (x : StreamNo) (joins : Prop), (joins ↔ ∃ name i item, (fetchOf s x).image = some name
            ∧ (fetchOf s x).candidates ≠ [] ∧ f.source ∉ (fetchOf s x).candidates
            ∧ e.offer.items[i]? = some item ∧ item.kind = .audio ∧ item.image = name ∧ im.getLsbD i = true) →
          (joins → fetchOf u x = { fetchOf s x with
            candidates := (fetchOf s x).candidates.filter (fun c => c != 0) ++ [f.source, 0] })
          ∧ (¬ joins → fetchOf u x = fetchOf s x))
      ∧ u.au.malformed = s.au.malformed ∧ u.au.declined = s.au.declined ∧ u.au.held = s.au.held
      ∧ u.isc.directory = s.isc.directory ∧ u.isc.store = s.isc.store ∧ u.fli = s.fli ∧ u.wq = s.wq ∧ u.de = s.de
      ∧ u.cp = s.cp ∧ u.shu = s.shu ∧ u.lu = s.lu ∧ u.mlc = s.mlc ∧ u.rti = s.rti ∧ u.pp = s.pp)
    ∧ (∀ (f : Received) (s : State), f.payload.length ≠ 6 ∨ auctionOf s f.subject = none → hearBid f s = s)
    ∧ ∀ (f : Received) (c0 c1 k im co ca : Byte) (s : State), f.payload = [c0, c1, k, im, co, ca] →
      c0.toNat + 256 * c1.toNat = 65535 ∨ k.toNat ≠ (keyOf f.source f.subject).toNat → hearBid f s = s

/-- R34, R36, R16, R32: at the window deadline of an entry in Bidding the own BID is withdrawn: none of the order is
held at AU or waits in the control queue, where the other frames keep their order and only frames that now find room
may follow; a head that is being sent stays, marked when it is the order's BID. The own rank is the number of heard
bids that go before; with a rank r of 1 or more the entry becomes AwaitingTake with its take deadline r take waits
later, keeping its cost, key, flags and heard-bid list. Before the deadline nothing happens. (A BID stands with no
other block than AU.) -/
def Obligations.WindowCloseAwaitsTake : Prop :=
  (∀ (t : Moment) (order : OrderSerial) (e : AuctionEntry) (s : State), auctionOf s order = some e →
    e.state = .bidding → e.windowDeadline ≤ max s.clock t → 1 ≤ ownRank e →
    (∀ b, b ≠ .au → ∀ f ∈ heldOf b s, f.kind ≠ .bid) →
    ∃ u e', exec (.windowClose t order) s = .next u ∧ auctionOf u order = some e'
      ∧ e'.state = .awaitingTake ∧ e'.rank = some (ownRank e)
      ∧ e'.takeDeadline = some (max s.clock t + ownRank e * (32000 * s.cfl.settings.takeWait))
      ∧ e'.cost = e.cost ∧ e'.key = e.key ∧ e'.flags = e.flags ∧ e'.heard = e.heard ∧ e'.offer = e.offer
      ∧ (∀ f ∈ u.au.held, isBidFor order f = false)
      ∧ (s.fli.sending ≠ some .control → ∃ more, (∀ f ∈ more, isBidFor order f = false)
          ∧ u.fli.queue = s.fli.queue.filter (fun f => !isBidFor order f) ++ more)
      ∧ (∀ head rest, s.fli.sending = some .control → s.fli.queue = head :: rest →
          (∃ more, (∀ f ∈ more, isBidFor order f = false)
            ∧ u.fli.queue = head :: rest.filter (fun f => !isBidFor order f) ++ more)
          ∧ u.fli.withdrawHead = (s.fli.withdrawHead || isBidFor order head)) ∧ u.au.malformed = s.au.malformed
      ∧ u.au.declined = s.au.declined ∧ u.rti.chute = s.rti.chute ∧ u.lu.day = s.lu.day)
    ∧ ∀ (t : Moment) (order : OrderSerial) (s : State),
      (∀ e, auctionOf s order = some e → e.state = .awaitingTake ∨ max s.clock t < e.windowDeadline) →
      exec (.windowClose t order) s = .next (s.at t)

/-- R35, R37, R19, R54: at rank 0, and when the take deadline of an entry in AwaitingTake is reached, the station
takes the order: the entry is freed, the work record made (TakenOrdersEnterTheQueue says how), and TAKE with the
entry's cost and key offered behind what the control queue still holds; without the room of R35 the take is declined
and counted, no record made and no TAKE offered. At rank 0 the clauses on record and TAKE are for a station of which no
block holds a refused frame but AU the BIDs of this order (R15 gives what follows when one does). -/
def Obligations.TakeFreesTheEntry : Prop :=
  (∀ (t : Moment) (order : OrderSerial) (e : AuctionEntry) (s : State), auctionOf s order = some e →
    e.state = .bidding → e.windowDeadline ≤ max s.clock t → ownRank e = 0 →
    ∃ u, exec (.windowClose t order) s = .next u ∧ auctionOf u order = none
      ∧ u.au.malformed = s.au.malformed
      ∧ u.au.declined = (if s.wq.records.length < 32 ∧ (offerPlan s e.offer).length ≤ freeSlots s
            ∧ (offerPlan s e.offer).length ≤ 32 ∧ s.shu.holds.length + withoutFreeCopy s e.offer ≤ 128
          then s.au.declined else min 65535 (s.au.declined + 1)))
    ∧ (∀ (t : Moment) (order : OrderSerial) (e : AuctionEntry) (s : State), auctionOf s order = some e →
      e.state = .bidding → e.windowDeadline ≤ max s.clock t → ownRank e = 0 → (∀ b, b ≠ .au → heldOf b s = []) →
      (∀ f ∈ s.au.held, isBidFor order f = true) →
      32 ≤ s.wq.records.length ∨ freeSlots s < (offerPlan s e.offer).length ∨ 32 < (offerPlan s e.offer).length
        ∨ 128 < s.shu.holds.length + withoutFreeCopy s e.offer →
      ∃ v, exec (.windowClose t order) s = .next (fullStage v) ∧ auctionOf v order = none ∧ v.au.held = []
        ∧ v.fli.queue = (match s.fli.sending, s.fli.queue with
          | some .control, head :: rest => head :: rest.filter (fun f => !isBidFor order f)
          | _, q => q.filter (fun f => !isBidFor order f))
        ∧ v.wq = s.wq ∧ v.shu = s.shu ∧ v.cp = s.cp ∧ v.isc = s.isc ∧ v.pp = s.pp
        ∧ v.au.malformed = s.au.malformed ∧ v.au.declined = min 65535 (s.au.declined + 1))
    ∧ (∀ (t : Moment) (order : OrderSerial) (e : AuctionEntry) (s : State), auctionOf s order = some e →
      e.state = .bidding → e.windowDeadline ≤ max s.clock t → ownRank e = 0 → (∀ b, b ≠ .au → heldOf b s = []) →
      (∀ f ∈ s.au.held, isBidFor order f = true) → s.fli.txState ≠ .muted → s.fli.queue.length ≤ 15 →
      s.wq.records.length < 32 → (offerPlan s e.offer).length ≤ freeSlots s → (offerPlan s e.offer).length ≤ 32 →
      s.shu.holds.length + withoutFreeCopy s e.offer ≤ 128 →
      ∃ v, exec (.windowClose t order) s = .next (fullStage v) ∧ auctionOf v order = none ∧ v.au.held = []
        ∧ v.fli.queue = (match s.fli.sending, s.fli.queue with
          | some .control, head :: rest => head :: rest.filter (fun f => !isBidFor order f)
          | _, q => q.filter (fun f => !isBidFor order f)) ++ [takeFrame order 255 e.cost e.key]
        ∧ v.wq = (acceptTake e (s.at t)).wq ∧ v.shu = (acceptTake e (s.at t)).shu ∧ v.au.declined = s.au.declined
        ∧ (recordOf s order = none → ∃ r, recordOf v order = some r ∧ r.takenWhole = true ∧ r.endMark = .none
            ∧ r.precedence = some (e.cost, e.key) ∧ r.patron = e.offer.patron ∧ r.zone = e.offer.zone
            ∧ r.urgency = e.offer.urgency ∧ r.gateCount = 0 ∧ r.mailedTags = []
            ∧ r.sources = e.heard.map (fun h => (h.station, h.flags.images))
            ∧ r.items.length = e.offer.items.length
            ∧ r.bundles.length = max 1 (ceilDiv (offerPlan s e.offer).length 4)))
    ∧ (∀ (t d : Moment) (order : OrderSerial) (e : AuctionEntry) (s : State), auctionOf s order = some e →
      e.state = .awaitingTake → e.takeDeadline = some d → d ≤ max s.clock t →
      (s.wq.records.length < 32 → (offerPlan s e.offer).length ≤ freeSlots s → (offerPlan s e.offer).length ≤ 32 →
      s.shu.holds.length + withoutFreeCopy s e.offer ≤ 128 →
        ∃ v, exec (.takeDeadline t order) s = .next (fullStage v) ∧ auctionOf v order = none
        ∧ (s.fli.txState ≠ .muted → s.fli.queue.length ≤ 15 →
            v.fli = { s.fli with queue := s.fli.queue ++ [takeFrame order 255 e.cost e.key] })
        ∧ (s.fli.txState ≠ .muted → 15 < s.fli.queue.length →
            v.fli = s.fli ∧ v.au.held = s.au.held ++ [takeFrame order 255 e.cost e.key])
        ∧ v.wq = (acceptTake e (s.at t)).wq ∧ v.shu = (acceptTake e (s.at t)).shu ∧ v.au.declined = s.au.declined
        ∧ (recordOf s order = none → ∃ r, recordOf v order = some r ∧ r.takenWhole = true ∧ r.endMark = .none
            ∧ r.precedence = some (e.cost, e.key) ∧ r.patron = e.offer.patron ∧ r.zone = e.offer.zone
            ∧ r.urgency = e.offer.urgency ∧ r.gateCount = 0 ∧ r.mailedTags = []
            ∧ r.sources = e.heard.map (fun h => (h.station, h.flags.images))
            ∧ r.items.length = e.offer.items.length
            ∧ r.bundles.length = max 1 (ceilDiv (offerPlan s e.offer).length 4)))
      ∧ (32 ≤ s.wq.records.length ∨ freeSlots s < (offerPlan s e.offer).length ∨ 32 < (offerPlan s e.offer).length
          ∨ 128 < s.shu.holds.length + withoutFreeCopy s e.offer →
        ∃ v, exec (.takeDeadline t order) s = .next (fullStage v) ∧ auctionOf v order = none ∧ v.wq = s.wq
          ∧ v.fli = s.fli ∧ v.shu = s.shu ∧ v.au.malformed = s.au.malformed
          ∧ v.au.declined = min 65535 (s.au.declined + 1)))
    ∧ ∀ (t : Moment) (order : OrderSerial) (s : State),
      (∀ e, auctionOf s order = some e → e.state = .bidding ∨ ∀ d, e.takeDeadline = some d → max s.clock t < d) →
      exec (.takeDeadline t order) s = .next (s.at t)

/-- R38, R39, R41 to R43, R67, R68: a whole-order TAKE or CLOSED of another station and a CANCEL drop the auction entry
of their order, and no other; but on a whole-order CLOSED(WrittenOff) nothing is done (R43, R156; the model's reading
against R38, log 11); an item TAKE or CLOSED drops none. The own BID of the order that AU holds is discarded with the
entry and queued ones are withdrawn (R16), one that is being sent marked; what the frame does further it does as where
no entry stood (said for a station of which no block holds another refused frame; R15 gives what follows when one does).
Against a whole-order TAKE a record taken whole and without end mark stands by its taken precedence: the station whose
TAKE goes first offers its TAKE again, the other abandons the record, unless a container of it has passed the gate. A
CLOSED other than WrittenOff abandons it likewise, and a CANCEL cancels any record without end mark. A record that ends
so gets its end mark; its Planned and Held items become Cancelled and its holds leave; the bundles in Waiting, Producing
and Written become Mailed, their planned cartridges freed, their cartridges Dirty (erased at once in a socket, log 71)
and their copies released, while bundles in the lane or mailed are kept; then the record is tested for completion (R66).
The station's own TAKE of the order, held at AU or queued, goes out all the same (log 46); a TAKE with a cost above
65534, or a key that is not its Source's, drops the auction entry and is compared with nothing (log 10). A CLOSED of a
wrong length or outcome, or with a tag count above 16 (log 68), is ignored. -/
def Obligations.OrdersEndByFrames : Prop :=
  (∀ (f : Received) (s : State),
    (f.payload.length = 3 → f.detail.toNat % 256 = 255 → auctionOf (hearTake f s) f.subject = none)
      ∧ (∀ o, readClosed f = some o → f.detail.toNat % 256 = 255 → auctionOf (hearClosed f s) f.subject
          = if o = .writtenOff then auctionOf s f.subject else none)
      ∧ auctionOf (hearCancel f s) f.subject = none
      ∧ (f.detail.toNat % 256 ≠ 255 → (hearTake f s).au = s.au ∧ (hearClosed f s).au = s.au
        ∧ (hearTake f s).fli = s.fli ∧ (hearClosed f s).fli = s.fli))
    ∧ (∀ (f : Received) (e : AuctionEntry) (s d : State), auctionOf s f.subject = some e →
      (∀ b, b ≠ .au → heldOf b s = []) → (∀ g ∈ s.au.held, g.kind = .bid ∧ g.subject = f.subject) →
      d = { s with
        au := { s.au with entries := s.au.entries.filter (fun e => e.2.order != f.subject), held := [] }
        fli := { s.fli with
          queue := (match s.fli.sending, s.fli.queue with
            | some .control, head :: rest => head :: rest.filter (fun g => !(g.kind == .bid && g.subject == f.subject))
            | _, q => q.filter (fun g => !(g.kind == .bid && g.subject == f.subject)))
          withdrawHead := s.fli.withdrawHead || (s.fli.sending == some .control
            && s.fli.queue.head?.any (fun g => g.kind == .bid && g.subject == f.subject)) } } →
      (∀ order, order ≠ f.subject → auctionOf d order = auctionOf s order)
      ∧ (f.payload.length = 3 → f.detail.toNat % 256 = 255 → hearTake f s = hearTake f d)
      ∧ (∀ o, readClosed f = some o → f.detail.toNat % 256 = 255 →
          (o ≠ .writtenOff → hearClosed f s = hearClosed f d)
          ∧ (o = .writtenOff → hearClosed f s = s))
      ∧ hearCancel f s = hearCancel f d)
    ∧ (∀ (f : Received) (c0 c1 k : Byte) (r : WorkRecord) (p : Nat × BitVec 4) (s : State),
      auctionOf s f.subject = none → f.detail.toNat % 256 = 255 → recordOf s f.subject = some r →
      r.takenWhole = true → r.endMark = .none → r.precedence = some p →
      (f.payload = [c0, c1, k] → c0.toNat + 256 * c1.toNat ≤ 65534 → k.toNat = (keyOf f.source f.subject).toNat →
        (goesBefore p (c0.toNat + 256 * c1.toNat, keyOf f.source f.subject) = true →
          hearTake f s = offerFrame .au (takeFrame f.subject 255 p.1 p.2) s)
        ∧ (goesBefore p (c0.toNat + 256 * c1.toNat, keyOf f.source f.subject) = false →
          (r.gateCount = 0 → hearTake f s = endRecord .abandoned f.subject s)
            ∧ (r.gateCount ≠ 0 → hearTake f s = s)))
      ∧ (f.payload = [c0, c1, k] → c0.toNat + 256 * c1.toNat = 65535 ∨ k.toNat ≠ (keyOf f.source f.subject).toNat →
        hearTake f s = s)
      ∧ (∀ o, readClosed f = some o →
        (o ≠ .writtenOff → r.gateCount = 0 → hearClosed f s = endRecord .abandoned f.subject s)
          ∧ (o = .writtenOff ∨ r.gateCount ≠ 0 → hearClosed f s = s)))
    ∧ (∀ (f : Received) (n o : Nat), n = (f.payload.getD 1 0).toNat → o = (f.payload.getD 0 0).toNat →
      (readClosed f = none ↔ 16 < n ∨ f.payload.length ≠ 2 + 3 * n ∨ o < 1 ∨ 6 < o))
    ∧ (∀ (f : Received) (s : State), readClosed f = none → hearClosed f s = s)
    ∧ (∀ (f : Received) (r : WorkRecord) (s : State), auctionOf s f.subject = none → recordOf s f.subject = some r →
      (r.endMark = .none → hearCancel f s = endRecord .cancelled f.subject s)
        ∧ (r.endMark ≠ .none → hearCancel f s = s)
        ∧ (r.takenWhole = false ∨ r.endMark ≠ .none → f.detail.toNat % 256 = 255 → hearTake f s = s ∧ hearClosed f s = s))
    ∧ (∀ (f : Received) (s : State), auctionOf s f.subject = none → recordOf s f.subject = none →
      hearCancel f s = s ∧ (f.detail.toNat % 256 = 255 → hearTake f s = s ∧ hearClosed f s = s))
    ∧ (∀ (mark : EndMark) (order : OrderSerial) (r : WorkRecord) (s : State), recordOf s order = some r →
      s.tablesSound →
      ∃ v, endRecord mark order s = settleWork v
        ∧ v.shu.holds = s.shu.holds.filter (fun h => h.order != order)
        ∧ recordOf v order = some { r with
            endMark := mark
            items := r.items.map (fun i =>
              if i.state = .planned ∨ i.state = .held then { i with state := .cancelled } else i)
            bundles := r.bundles.map (fun b =>
              if b.state = .waiting ∨ b.state = .producing ∨ b.state = .written
              then { b with state := .mailed, riders := [] } else b) }
        ∧ (∀ o, o ≠ order → recordOf v o = recordOf s o)
        ∧ (∀ e ∈ v.wq.plan, e.2.order = order → ∀ b ∈ r.bundles, e.2.bundle = b.number →
            b.state ≠ .waiting ∧ b.state ≠ .producing ∧ b.state ≠ .written)
        ∧ (∀ e ∈ s.wq.plan, ∀ b ∈ r.bundles, ∀ c x, e.2.order = order → e.2.bundle = b.number →
            b.state = .waiting ∨ b.state = .producing ∨ b.state = .written → e.2.link = some c → cartOf s c = some x →
            ∃ x', cartOf v c = some x' ∧ x'.state = (match x.state with
              | .assigned | .writing | .verifying | .written => if x.socket.isSome then .erasing else .dirty
              | .packed => .dirty
              | st => st))
        ∧ (∀ title, shelfOf v title = (shelfOf s title).map (fun x => { x with reserved := x.reserved
            - ((s.shu.holds.filter (fun h => h.order == order && h.setAside && h.title == title)).length
              + ((r.bundles.filter (fun b => b.state == .waiting || b.state == .producing || b.state == .written)).flatMap
                  (fun b => b.riders.filter (fun y => (r.item? y.item).any (fun i => i.title == title)))).length) }))
        ∧ v.fli = s.fli ∧ v.au = s.au ∧ v.isc = s.isc ∧ v.lu = s.lu ∧ v.mlc = s.mlc ∧ v.rti = s.rti ∧ v.pp = s.pp)
    ∧ ∀ (s : State) (r : WorkRecord) (b : Bundle), b.state = .packing ∨ b.state = .laned ∨ b.state = .mailed →
      giveUpBundle r s b = s

/-! ## The work queue -/

/-- R62, R135, R136, R139: WQ has room for an item take of (o, i) exactly when a record of o stands with no end mark,
fewer than 8 bundles and item i absent or Held, or no record of o stands and a record is free; without room a HANDOVER
is refused. A serve pass for a title first drops its Waiting holds whose item the order's record holds in another state
than Held, their set-aside copies becoming free. Then the Waiting holds with a set-aside copy are served, in hold order,
those with room whose order stands in no auction; then, while a copy is free, those without one: served, or with a copy
set aside (a record with 8 bundles, or an auction), or passed over. A served hold leaves the list and becomes an item
take, a copy being reserved for it unless one was set aside. No hold that could still be served, or have a copy set
aside, is left by a pass. After a pass that a free copy called for, copies left over set the entry's mark; a pass for
every title sets none. The model's choices: the copies that the first removal frees owe no further pass and set no mark
of their own (log 88); an order in auction has a copy set aside also when no record of it stands and none is free (log
86); the first step for every title is one walk of the hold list (log 72); the titles that are owed a pass (kept in a
field of the model's own, log 31) are served in the order in which their copies became free (log 76), before that walk
and the announcing (log 7). -/
def Obligations.RoomForItemTake : Prop :=
  (∀ (s : State) (order : OrderSerial) (i : Nat), hasRoom s order i = true ↔
    (∃ r, recordOf s order = some r ∧ r.endMark = .none ∧ r.bundles.length < 8
        ∧ ∀ x, r.item? i = some x → x.state = .held)
      ∨ (recordOf s order = none ∧ s.wq.records.length < 32))
    ∧ (∀ (s : State) (h : Hold), hasRoom s h.order h.item = false → refusesHandover s h = true)
    ∧ (∀ (s g : State) (h : Hold),
      g = { s with shu := { s.shu with holds := s.shu.holds.filter (fun x => !(x.order == h.order && x.item == h.item)) } } →
      serveHold h s = itemTake h (if h.setAside then g else { g with shu := { g.shu with
        shelf := s.shu.shelf.map (fun e =>
          if e.2.title = h.title then (e.1, { e.2 with reserved := e.2.reserved + 1 }) else e) } })
      ∧ ((∃ r x, recordOf s h.order = some r ∧ r.item? h.item = some x ∧ x.state ≠ .held) →
        dropFilled s h = if h.setAside then { g with shu := { g.shu with
          shelf := s.shu.shelf.map (fun e =>
            if e.2.title = h.title then (e.1, { e.2 with reserved := e.2.reserved - 1 }) else e) } } else g)
      ∧ ((∀ r x, recordOf s h.order = some r → r.item? h.item = some x → x.state = .held) → dropFilled s h = s)
      ∧ (hasRoom s h.order h.item = true → auctionOf s h.order = none → serveSetAside s h = serveHold h s
        ∧ (0 < freeCopies s h.title → serveFree s h = serveHold h s))
      ∧ (hasRoom s h.order h.item = false ∨ auctionOf s h.order ≠ none → serveSetAside s h = s
        ∧ (0 < freeCopies s h.title →
          ((∃ r, recordOf s h.order = some r ∧ r.bundles.length = 8) ∨ auctionOf s h.order ≠ none →
            serveFree s h = { s with shu := { s.shu with
              shelf := s.shu.shelf.map (fun e =>
                if e.2.title = h.title then (e.1, { e.2 with reserved := e.2.reserved + 1 }) else e)
              holds := s.shu.holds.map (fun x =>
                if x.order = h.order ∧ x.item = h.item then { x with setAside := true } else x) } })
          ∧ ((∀ r, recordOf s h.order = some r → r.bundles.length ≠ 8) → auctionOf s h.order = none →
            serveFree s h = s)))
      ∧ (freeCopies s h.title = 0 → serveFree s h = s))
    ∧ (∀ (s u v : State) (title : Title),
      u = (s.shu.holds.filter (fun h => h.title == title && h.offered.isNone)).foldl dropFilled s →
      v = (u.shu.holds.filter (fun h => h.title == title && h.offered.isNone && h.setAside)).foldl serveSetAside u →
      servePass s title
        = (v.shu.holds.filter (fun h => h.title == title && h.offered.isNone && !h.setAside)).foldl serveFree v)
    ∧ (∀ (s v : State) (title : Title), s.tablesSound → v = servePass s title →
      (∀ h ∈ v.shu.holds, h.title = title → h.offered = none →
        (h.setAside = true → hasRoom v h.order h.item = false ∨ auctionOf v h.order ≠ none)
        ∧ (h.setAside = false → freeCopies v title = 0 ∨ (hasRoom v h.order h.item = false ∧ auctionOf v h.order = none
            ∧ ∀ r, recordOf v h.order = some r → r.bundles.length ≠ 8)))
      ∧ (∀ h ∈ s.shu.holds, h.title ≠ title ∨ h.offered ≠ none → h ∈ v.shu.holds)
      ∧ v.fli = s.fli ∧ v.shu.held = s.shu.held ∧ v.au = s.au ∧ v.isc = s.isc ∧ v.lu = s.lu ∧ v.mlc = s.mlc)
    ∧ (∀ (s v : State) (title : Title), v = servePass s title →
      (freeCopies v title = 0 → serveAndMark s title = v)
      ∧ (0 < freeCopies v title → serveAndMark s title = { v with shu := { v.shu with
          shelf := v.shu.shelf.map (fun e => if e.2.title = title then (e.1, { e.2 with mark := true }) else e) } }))
    ∧ ∀ s : State, serveAllSetAside s = (s.shu.holds.filter (fun h => h.offered.isNone && h.setAside)).foldl serveSetAside s
      ∧ shelfStage s
        = announce (serveAllSetAside (s.shu.due.foldl serveAndMark { s with shu := { s.shu with due := [] } }))
      ∧ ∃ titles : List Title, serveAll s = titles.foldl servePass s
        ∧ (∀ e ∈ s.shu.shelf, e.2.title ∈ titles) ∧ ∀ h ∈ s.shu.holds, h.title ∈ titles

/-- R46, R47, R49, R54, R55, R63: a new record stands at the tail of its urgency group, urgent groups first, and no other
record moves. A whole
take makes a record with every item (audio of the best-known size and Planned; braille Planned with a free copy, else
Held), bundles numbered from 1 with the riding items on bundle 1, and a slot of the plan store for each cartridge of
the fill plan, its parts numbered by image start; it reserves a copy for each riding item and makes a hold for each
Held one, unless one stands: each takes the next sequence number, and its place in hold order, behind the holds of its
placed day (R133, R134; also behind those of the sequence at which the counter stops, log 81). An item take of a hold makes a braille-only record, or adds its item and a braille-only
bundle to the standing one, Written at once with the pick Pending (R52, R159). -/
def Obligations.TakenOrdersEnterTheQueue : Prop :=
  (∀ (r : WorkRecord) (rs : List WorkRecord), rs.Pairwise (fun x y => ¬ (x.urgency = .normal ∧ y.urgency = .urgent)) →
    (enqueueRecord r rs).filter (fun x => x.urgency == r.urgency) = rs.filter (fun x => x.urgency == r.urgency) ++ [r]
      ∧ (enqueueRecord r rs).filter (fun x => x.urgency != r.urgency) = rs.filter (fun x => x.urgency != r.urgency)
      ∧ (enqueueRecord r rs).Pairwise (fun x y => ¬ (x.urgency = .normal ∧ y.urgency = .urgent)))
    ∧ (∀ (e : AuctionEntry) (n : Nat) (free : List Nat) (carts : List (List Placement)) (s v : State),
      acceptsTake s e.offer = true → s.tablesSound → recordOf s e.order = none →
      (∀ x ∈ s.wq.plan, x.2.order ≠ e.order) → free = withFreeCopy s e.offer → carts = offerPlan s e.offer →
      n = carts.length → v = acceptTake e s →
      (∃ r, recordOf v e.order = some r ∧ v.wq.records = enqueueRecord r s.wq.records
        ∧ r.patron = e.offer.patron ∧ r.zone = e.offer.zone
        ∧ r.urgency = e.offer.urgency ∧ r.takenWhole = true ∧ r.precedence = some (e.cost, e.key)
        ∧ r.sources = e.heard.map (fun h => (h.station, h.flags.images))
        ∧ r.endMark = .none ∧ r.gateCount = 0 ∧ r.mailedTags = []
        ∧ r.items = e.offer.items.zipIdx.map (fun x => {
            index := x.2, kind := x.1.kind, title := x.1.title, version := x.1.version
            amount := if x.1.kind = .audio then bestSize s x.1.image x.1.amount else x.1.amount
            state := if x.1.kind = .audio ∨ x.2 ∈ free then .planned else .held
            holdServed := false })
        ∧ r.bundles.length = max 1 (ceilDiv n 4)
        ∧ ∀ (i : Nat) (b : Bundle), r.bundles[i]? = some b → b.number = i + 1 ∧ b.containers = []
          ∧ b.riders = (if i = 0 then free.map (fun x => {
              item := x, pick := if n = 0 then some .pending else none, copySet := none }) else [])
          ∧ b.state = (if n ≠ 0 then .waiting else if free = [] then .mailed else .written))
      ∧ (∀ order, order ≠ e.order → recordOf v order = recordOf s order)
      ∧ v.wq.plan.length = s.wq.plan.length + n
      ∧ (∀ slot pc, s.wq.plan.at? slot = some pc → v.wq.plan.at? slot = some pc)
      ∧ (∀ (i : Nat) (ps : List Placement), carts[i]? = some ps → ∃ slot pc, s.wq.plan.at? slot = none ∧ v.wq.plan.at? slot = some pc
          ∧ pc.order = e.order ∧ pc.bundle = i / 4 + 1 ∧ pc.position = i % 4 + 1 ∧ pc.link = none
          ∧ pc.written = false ∧ pc.loadAsked = false
          ∧ pc.placements.map (fun p => ({ p with part := 0 } : Placement)) = ps.map (fun p => ({ p with part := 0 } : Placement)))
      ∧ (∀ x ∈ v.wq.plan, x.2.order = e.order → ∀ p ∈ x.2.placements, p.part =
          (((v.wq.plan.filter (fun y => y.2.order == e.order)).flatMap (fun y => y.2.placements)).filter
            (fun q => q.item == p.item && decide (q.imageStart < p.imageStart))).length)
      ∧ (∀ title, shelfOf v title = (shelfOf s title).map (fun x => { x with reserved := x.reserved
          + (e.offer.items.zipIdx.filter (fun y => y.1.kind == .braille && y.1.title == title && free.contains y.2)).length }))
      ∧ (∀ order i h, holdOf s order i = some h → holdOf v order i = some h)
      ∧ (∀ made : Nat → Nat, (∀ i, made i = (e.offer.items.zipIdx.filter (fun y => y.2 < i && y.1.kind == .braille
            && !free.contains y.2 && (holdOf s e.order y.2).isNone)).length) →
          (∀ y ∈ e.offer.items.zipIdx, y.1.kind = .braille → y.2 ∉ free → holdOf s e.order y.2 = none →
            holdOf v e.order y.2 = some {
              order := e.order, item := y.2, title := y.1.title, version := y.1.version, volumes := y.1.amount
              patron := e.offer.patron, zone := e.offer.zone, urgency := e.offer.urgency
              placed := if s.lu.dayKnown then some s.lu.day else none
              seq := min 4294967295 (s.shu.seq + made (y.2 + 1)), offered := none, setAside := false })
          ∧ v.shu.holds.length = s.shu.holds.length + made e.offer.items.length
          ∧ v.shu.seq = (if made e.offer.items.length = 0 then s.shu.seq
              else min 4294967295 (s.shu.seq + made e.offer.items.length)))
      ∧ v.shu.holds.filter (fun h => (holdOf s h.order h.item).isSome) = s.shu.holds
      ∧ (∀ before : Hold → Hold → Prop, (∀ g h, before g h ↔ g.placed.getD 65536 < h.placed.getD 65536
            ∨ (g.placed.getD 65536 = h.placed.getD 65536 ∧ g.seq ≤ h.seq)) →
          (∀ h ∈ s.shu.holds, h.seq ≤ 4294967295) → s.shu.holds.Pairwise before → v.shu.holds.Pairwise before
            ∧ ∀ (i j : Nat) (g h : Hold), v.shu.holds[i]? = some g → v.shu.holds[j]? = some h → g ∈ s.shu.holds →
                h ∉ s.shu.holds → before g h → i < j)
      ∧ (n ≠ 0 → v.pp = s.pp)
      ∧ (n = 0 → s.pp.events.length + free.length ≤ 32 →
          v.pp.events = s.pp.events ++ free.map (fun i => .pickList (recordIndex v e.order) i))
      ∧ v.fli = s.fli ∧ v.au = s.au ∧ v.isc = s.isc ∧ v.cp = s.cp ∧ v.lu = s.lu ∧ v.mlc = s.mlc ∧ v.rti = s.rti
      ∧ v.cfl = s.cfl ∧ v.de.sockets = s.de.sockets ∧ v.pp.butEvents = s.pp.butEvents)
    ∧ (∀ (h : Hold) (s v : State), recordOf s h.order = none → (∀ x ∈ s.wq.plan, x.2.order ≠ h.order) →
      v = itemTake h s →
      (∃ r, recordOf v h.order = some r ∧ v.wq.records = enqueueRecord r s.wq.records)
      ∧ recordOf v h.order = some {
        order := h.order, patron := h.patron, zone := h.zone, urgency := h.urgency, takenWhole := false
        precedence := none, sources := []
        items := [{ index := h.item, kind := .braille, title := h.title, version := h.version, amount := h.volumes
                    state := .planned, holdServed := true }]
        bundles := [{ number := 1, riders := [{ item := h.item, pick := some .pending, copySet := none }]
                      state := .written, containers := [] }]
        endMark := .none, gateCount := 0, mailedTags := [] }
      ∧ (∀ order, order ≠ h.order → recordOf v order = recordOf s order)
      ∧ (s.pp.events.length < 32 → v.pp.events = s.pp.events ++ [.pickList (recordIndex v h.order) h.item])
      ∧ v.wq.plan = s.wq.plan ∧ v.fli = s.fli ∧ v.au = s.au ∧ v.shu = s.shu)
    ∧ (∀ (h : Hold) (r : WorkRecord) (s v : State), recordOf s h.order = some r →
      r.bundles.map (·.number) = List.range' 1 r.bundles.length →
      (∀ x ∈ s.wq.plan, x.2.order = h.order → x.2.bundle ≤ r.bundles.length) → v = itemTake h s →
      ∃ r', recordOf v h.order = some r' ∧ r'.takenWhole = r.takenWhole ∧ r'.endMark = r.endMark
        ∧ r'.bundles.length = r.bundles.length + 1
        ∧ r'.bundles[r.bundles.length]? = some {
            number := r.bundles.length + 1, riders := [{ item := h.item, pick := some .pending, copySet := none }]
            state := .written, containers := [] }
        ∧ (∀ (i : Nat) (b : Bundle), r.bundles[i]? = some b → ∃ b', r'.bundles[i]? = some b' ∧ b'.number = b.number
            ∧ b'.containers = b.containers ∧ b'.riders.map (·.item) = b.riders.map (·.item)
            ∧ (b.state = .packing ∨ b.state = .laned ∨ b.state = .mailed → b' = b))
        ∧ (∀ x, r.item? h.item = some x → r'.items = r.items.map (fun y =>
            if y.index = h.item then { y with state := .planned, holdServed := true } else y))
        ∧ (r.item? h.item = none → r'.item? h.item = some {
              index := h.item, kind := .braille, title := h.title, version := h.version, amount := h.volumes
              state := .planned, holdServed := true }
            ∧ ∀ j, j ≠ h.item → r'.item? j = r.item? j)
        ∧ (∀ order, order ≠ h.order → recordOf v order = recordOf s order)
        ∧ v.wq.records.map (·.order) = s.wq.records.map (·.order)
        ∧ v.wq.plan = s.wq.plan ∧ v.fli = s.fli ∧ v.au = s.au ∧ v.shu = s.shu)

/-- R49, R57 to R61, R107: a reported size is written to a Planned item that differs; the item fails when a placement of
it on a linked or written planned cartridge reaches beyond it, else its record is replanned: the unassigned planned
cartridges of the affected bundles are freed, and the rest of the item's new size, which no linked or written planned
cartridge holds, and what the freed ones held of other items, ranges that meet joined, is laid out anew by the fill plan
in item order into the free positions and further bundles; without slots or with more than 8 bundles the item fails. A
failing item becomes Failed with ItemFailed and CLOSED(Failed); its placements leave every planned cartridge that is not
written, one left empty is freed, the others close up at nominal figures and have no link; an Assigned cartridge of
these is Ready again, another is erased (log 71), or Dirty outside the rack. A reported size is looked at by, and an
image that cannot be had fails, every Planned audio item of that image in every record, by queue order and item (the
order of two items of one record that fail so is the model's, log 77). -/
def Obligations.ResizedAndFailedItems : Prop :=
  (∀ (name : ImageName) (size : Nat) (l : List (OrderSerial × WorkItem)) (s : State),
    l = s.wq.records.flatMap (fun r => (r.items.filter (fun i => i.state == .planned && i.kind == .audio
      && i.title == name.title && i.version == name.version)).map (fun i => (r.order, i))) →
    reportSize name size s = l.foldl (resizeItem size) s
      ∧ failImage name s = l.foldl (fun v x => failItem x.1 x.2.index v) s)
    ∧ (∀ (order : OrderSerial) (x : WorkItem) (size : Nat) (s : State),
    (x.amount = size ∨ (∀ r y, recordOf s order = some r → r.item? x.index = some y → y.state ≠ .planned) →
      resizeItem size s (order, x) = s)
    ∧ ∀ (r : WorkRecord) (y : WorkItem) (g : State), x.amount ≠ size → recordOf s order = some r →
      r.item? x.index = some y → y.state = .planned →
      g = { s with wq := { s.wq with records := s.wq.records.map (fun r => if r.order = order then { r with
        items := r.items.map (fun i => if i.index = x.index then { i with amount := size } else i) } else r) } } →
      ((∃ e ∈ s.wq.plan, e.2.order = order ∧ (e.2.written = true ∨ e.2.link ≠ none)
          ∧ ∃ p ∈ e.2.placements, p.item = x.index ∧ size < p.imageStart + p.length) →
        resizeItem size s (order, x) = failItem order x.index g)
      ∧ ((∀ e ∈ s.wq.plan, e.2.order = order → e.2.written = true ∨ e.2.link ≠ none →
          ∀ p ∈ e.2.placements, p.item = x.index → p.imageStart + p.length ≤ size) →
        resizeItem size s (order, x) = replan order x.index size g))
    ∧ (∀ (order : OrderSerial) (item size extra : Nat) (r : WorkRecord) (affected : List Bundle)
      (freed fixed : Table PlannedCart) (carts : List (List Placement)) (places : List (Nat × Nat)) (s : State),
      s.tablesSound → recordOf s order = some r →
      affected = r.bundles.filter (fun b => (b.state == .waiting || b.state == .producing)
        && s.wq.plan.any (fun e => e.2.order == order && e.2.bundle == b.number
          && e.2.placements.any (fun p => p.item == item))) →
      freed = affected.flatMap (fun b => (bundleCarts s order b.number).filter
        (fun e => !e.2.written && e.2.link.isNone)) →
      fixed = r.bundles.flatMap (fun b => (bundleCarts s order b.number).filter
        (fun e => e.2.written || e.2.link.isSome)) →
      carts = fillPlan (nominalK s) (nominalG s) (replanRuns r item size freed fixed) →
      places = affected.flatMap (fun b => ([1, 2, 3, 4].filter (fun p => !(fixed.any (fun e =>
        e.2.bundle == b.number && e.2.position == p)))).map (fun p => (b.number, p))) →
      extra = ceilDiv (carts.length - places.length) 4 →
      (128 - s.wq.plan.length + freed.length < carts.length ∨ 8 < r.bundles.length + extra →
        replan order item size s = failItem order item s)
      ∧ (carts.length ≤ 128 - s.wq.plan.length + freed.length → r.bundles.length + extra ≤ 8 →
        ∃ v, replan order item size s = settleWork v
          ∧ recordOf v order = some { r with bundles := r.bundles ++ (List.range extra).map (fun i => {
              number := r.bundles.length + i + 1, riders := [], state := .waiting, containers := [] }) }
          ∧ (∀ o, o ≠ order → recordOf v o = recordOf s o)
          ∧ v.wq.plan.length + freed.length = s.wq.plan.length + carts.length
          ∧ (∀ slot pc, s.wq.plan.at? slot = some pc → (slot, pc) ∉ freed → ∃ pc', v.wq.plan.at? slot = some pc'
              ∧ { pc' with placements := [] } = { pc with placements := [] }
              ∧ pc'.placements.map (fun p => ({ p with part := 0 } : Placement)) = pc.placements.map (fun p => ({ p with part := 0 } : Placement))
              ∧ (pc.order ≠ order → pc' = pc))
          ∧ (∀ (i : Nat) (ps : List Placement), carts[i]? = some ps → ∃ slot pc, v.wq.plan.at? slot = some pc ∧ pc.order = order
              ∧ pc.link = none ∧ pc.written = false
              ∧ (places ++ (List.range extra).flatMap (fun i => [1, 2, 3, 4].map (fun p =>
                  (r.bundles.length + i + 1, p))))[i]? = some (pc.bundle, pc.position)
              ∧ pc.placements.map (fun p => ({ p with part := 0 } : Placement)) = ps.map (fun p => ({ p with part := 0 } : Placement)))
          ∧ (∀ x ∈ v.wq.plan, x.2.order = order → ∀ p ∈ x.2.placements, p.part =
              (((v.wq.plan.filter (fun y => y.2.order == order)).flatMap (fun y => y.2.placements)).filter
                (fun q => q.item == p.item && decide (q.imageStart < p.imageStart))).length)
          ∧ v.fli = s.fli ∧ v.au = s.au ∧ v.isc = s.isc ∧ v.cp = s.cp ∧ v.shu = s.shu ∧ v.lu = s.lu ∧ v.mlc = s.mlc
          ∧ v.rti = s.rti ∧ v.pp = s.pp))
    ∧ (∀ (r : WorkRecord) (item size : Nat) (freed fixed : Table PlannedCart),
      ∃ runs : Nat → List (Nat × Nat), replanRuns r item size freed fixed = r.items.flatMap (fun i =>
          (runs i.index).map (fun x => { item := i.index, start := x.1, len := x.2 }))
        ∧ (∀ n, (∃ x ∈ runs item, x.1 ≤ n ∧ n < x.1 + x.2) ↔ n < size ∧ ∀ e ∈ fixed, ∀ p ∈ e.2.placements,
            p.item = item → n < p.imageStart ∨ p.imageStart + p.length ≤ n)
        ∧ (∀ j n, j ≠ item → ((∃ x ∈ runs j, x.1 ≤ n ∧ n < x.1 + x.2) ↔ ∃ e ∈ freed, ∃ p ∈ e.2.placements,
            p.item = j ∧ p.imageStart ≤ n ∧ n < p.imageStart + p.length))
        ∧ ∀ j m x y, (runs j)[m]? = some x → (runs j)[m + 1]? = some y → x.1 ≤ y.1
          ∧ ((∀ e ∈ fixed, ∀ p ∈ e.2.placements, 0 < p.length) → x.1 + x.2 ≠ y.1))
    ∧ (∀ (order : OrderSerial) (item : Nat) (s : State),
      ((∀ r y, recordOf s order = some r → r.item? item = some y → y.state ≠ .planned) → failItem order item s = s)
      ∧ ∀ (r : WorkRecord) (y : WorkItem), s.tablesSound → recordOf s order = some r → r.item? item = some y →
        y.state = .planned → ∃ v, failItem order item s = settleWork v
          ∧ recordOf v order = some { r with items := r.items.map (fun i =>
              if i.index = item then { i with state := .failed } else i) }
          ∧ (∀ o, o ≠ order → recordOf v o = recordOf s o)
          ∧ (s.pp.events.length < 32 → v.pp.events = s.pp.events ++ [.itemFailed order item])
          ∧ (s.fli.txState ≠ .muted → s.fli.queue.length ≤ 15 →
              v.fli = { s.fli with queue := s.fli.queue ++ [closedFrame order item .failed []] })
          ∧ (s.fli.txState ≠ .muted → 15 < s.fli.queue.length →
              v.fli = s.fli ∧ v.wq.held = s.wq.held ++ [closedFrame order item .failed []])
          ∧ (∀ slot pc, s.wq.plan.at? slot = some pc → pc.order = order → pc.written = false →
              (∃ p ∈ pc.placements, p.item = item) →
              ((∀ p ∈ pc.placements, p.item = item) → v.wq.plan.at? slot = none)
              ∧ ((∃ p ∈ pc.placements, p.item ≠ item) → ∃ pc', v.wq.plan.at? slot = some pc' ∧ pc'.order = order
                ∧ pc'.bundle = pc.bundle ∧ pc'.position = pc.position ∧ pc'.link = none ∧ pc'.written = false
                ∧ pc'.placements.map (fun p => ({ p with part := 0 } : Placement)) = (restart (nominalG s) (nominalG s)
                    (pc.placements.filter (fun p => p.item != item))).map (fun p => ({ p with part := 0 } : Placement)))
              ∧ ∀ c x, pc.link = some c → cartOf s c = some x → ∃ x', cartOf v c = some x' ∧ x'.link = none
                ∧ x'.state = (if x.state = .assigned then .ready else if x.socket.isSome then .erasing else .dirty))
          ∧ (∀ slot pc, s.wq.plan.at? slot = some pc →
              pc.written = true ∨ ((pc.order ≠ order ∨ ∀ p ∈ pc.placements, p.item ≠ item)
                ∧ (∀ q ∈ s.wq.plan, q.1 ≠ slot → pc.link = none ∨ q.2.link ≠ pc.link)) →
              ∃ pc', v.wq.plan.at? slot = some pc' ∧ { pc' with placements := [] } = { pc with placements := [] }
                ∧ pc'.placements.map (fun p => ({ p with part := 0 } : Placement)) = pc.placements.map (fun p => ({ p with part := 0 } : Placement))
                ∧ (pc.order ≠ order → pc' = pc))
          ∧ (∀ x ∈ v.wq.plan, x.2.order = order → ∀ p ∈ x.2.placements, p.part =
              (((v.wq.plan.filter (fun y => y.2.order == order)).flatMap (fun y => y.2.placements)).filter
                (fun q => q.item == p.item && decide (q.imageStart < p.imageStart))).length)
          ∧ v.au = s.au ∧ v.isc = s.isc ∧ v.shu = s.shu ∧ v.lu = s.lu ∧ v.mlc = s.mlc ∧ v.rti = s.rti)

/-- R52, R53, R65, R66, R159: the state of a bundle that has not entered Packing follows from its planned cartridges and
riding items; it is set anew for every bundle of every record, record by record in queue order and bundle by bundle,
which is the order of the PickLists of several bundles (the model's choice, log 83), and then every record is tested. A
bundle that becomes Written has every pick Pending and raises PickList for its riding items in rising item index. When a
bundle becomes Mailed its planned cartridges are freed, and each Planned item of the record that it carries and no other
bundle not yet Mailed does becomes Mailed, a hold-served one with its own CLOSED(Mailed); then the record is tested. A
record of which every bundle is Mailed leaves the queue with its planned cartridges, a whole-order CLOSED tells its
outcome (Held, else Mailed, else Failed for a record taken whole; Cancelled for a cancelled one; none for an abandoned
one or an item take), and SHU serves holds (log 72); the CLOSED(Held) of a record complete at its creation, every item
of it being Held, waits while AU holds the TAKE of the order (R54; log 40). -/
def Obligations.BundlesGoTheirWay : Prop :=
  (∀ (conds : List Condition) (b : Bundle), b.state = .waiting ∨ b.state = .producing ∨ b.state = .written →
    (conds = [] → b.riders = [] → (b.renew conds).state = .mailed)
      ∧ (conds = [] → b.riders ≠ [] → (b.renew conds).state = .written)
      ∧ (conds ≠ [] → (∀ c ∈ conds, c = .written) → (b.renew conds).state = .written)
      ∧ ((∃ c ∈ conds, c ≠ .unassigned) → (∃ c ∈ conds, c ≠ .written) → (b.renew conds).state = .producing)
      ∧ (conds ≠ [] → (∀ c ∈ conds, c = .unassigned) → (b.renew conds).state = .waiting)
      ∧ (b.renew conds).number = b.number ∧ (b.renew conds).containers = b.containers
      ∧ (b.renew conds).riders = (if b.state ≠ .written ∧ (b.renew conds).state = .written
          then b.riders.map (fun x => { x with pick := some .pending }) else b.riders))
    ∧ (∀ (conds : List Condition) (b : Bundle), b.state = .packing ∨ b.state = .laned ∨ b.state = .mailed →
      b.renew conds = b)
    ∧ (∀ s : State,
      settleWork s = ((renewBundles s).wq.records.map (·.order)).foldl completeIfDone (renewBundles s)
      ∧ renewBundles s = (s.wq.records.map (·.order)).foldl renewRecord s
      ∧ ∀ order, (recordOf s order = none → renewRecord s order = s)
        ∧ ∀ r, recordOf s order = some r → renewRecord s order = r.bundles.foldl (renewBundle order) s)
    ∧ (∀ (order : OrderSerial) (b b' : Bundle) (s v : State),
      b' = b.renew ((bundleCarts s order b.number).map (fun e => conditionOf e.2)) →
      v = { s with wq := { s.wq with records := s.wq.records.map (fun r => if r.order = order then { r with
        bundles := r.bundles.map (fun x => if x.number = b.number then b' else x) } else r) } } →
      (b.state = .written ∨ b'.state ≠ .written → renewBundle order s b = v)
      ∧ (b.state ≠ .written → b'.state = .written → renewBundle order s b
        = (sortBy id (b.riders.map (·.item))).foldl (fun u i => raise (.pickList (recordIndex s order) i) u) v))
    ∧ (∀ (s : State) (order : OrderSerial) (n : Nat) (e : Nat × PlannedCart),
      e ∈ bundleCarts s order n ↔ e ∈ s.wq.plan ∧ e.2.order = order ∧ e.2.bundle = n)
    ∧ (∀ l : List Nat, (sortBy id l).Perm l ∧ (sortBy id l).Pairwise (· ≤ ·))
    ∧ (∀ (s : State) (before after : List WorkRecord) (r : WorkRecord), s.wq.records = before ++ r :: after →
      (∀ x ∈ before, x.order ≠ r.order) → recordIndex s r.order = before.length)
    ∧ (∀ (order : OrderSerial) (number : Nat) (r : WorkRecord) (b : Bundle) (done : List WorkItem) (frames : List Frame)
      (s : State), s.tablesSound → recordOf s order = some r → r.bundle? number = some b →
      done = itemsMailedBy s r b → frames = (done.filter (·.holdServed)).map (fun i =>
        closedFrame order i.index .mailed ((r.mailedTags.filter (fun t => t.2.contains i.index)).map (·.1))) →
      (∀ i, i ∈ done ↔ i ∈ r.items ∧ i.state = .planned ∧ s.carries order b i.index
        ∧ ∀ c ∈ r.bundles, c.number ≠ number → c.state ≠ .mailed → ¬ s.carries order c i.index)
      ∧ ∃ v, mailBundle order number s = completeIfDone v order
        ∧ recordOf v order = some { r with
            bundles := r.bundles.map (fun x => if x.number = number then { x with
              state := .mailed, containers := [], riders := x.riders.map (fun y => { y with copySet := none }) } else x)
            items := r.items.map (fun x => if x.index ∈ done.map (·.index) then { x with state := .mailed } else x) }
        ∧ (∀ o, o ≠ order → recordOf v o = recordOf s o)
        ∧ v.wq.plan = s.wq.plan.filter (fun e => !(e.2.order == order && e.2.bundle == number))
        ∧ (∀ e ∈ s.wq.plan, ∀ c x, e.2.order = order → e.2.bundle = number → e.2.link = some c → cartOf s c = some x →
            x.link = some e.1 → cartOf v c = some { x with link := none })
        ∧ (∀ c x, cartOf s c = some x → (∀ e ∈ s.wq.plan, e.2.order = order → e.2.bundle = number →
            e.2.link = some c → x.link ≠ some e.1) → cartOf v c = some x)
        ∧ (s.fli.txState ≠ .muted → s.fli.queue.length + frames.length ≤ 16 →
            v.fli = { s.fli with queue := s.fli.queue ++ frames } ∧ v.wq.held = s.wq.held)
        ∧ v.au = s.au ∧ v.isc = s.isc ∧ v.de = s.de ∧ v.shu = s.shu ∧ v.lu = s.lu ∧ v.mlc = s.mlc ∧ v.rti = s.rti
        ∧ v.pp = s.pp)
    ∧ (∀ (order : OrderSerial) (s : State), (recordOf s order = none → completeIfDone s order = s)
      ∧ ∀ r, recordOf s order = some r →
        ((∃ b ∈ r.bundles, b.state ≠ .mailed) → completeIfDone s order = s)
        ∧ ((∀ b ∈ r.bundles, b.state = .mailed) → Table.wf 128 s.wq.plan = true →
          ∃ v, completeIfDone s order = serveAllSetAside (serveAll v)
            ∧ v.wq.records = s.wq.records.filter (fun x => x.order != order)
            ∧ v.wq.plan = s.wq.plan.filter (fun e =>
                !(e.2.order == order && r.bundles.any (fun b => b.number == e.2.bundle)))
            ∧ (r.endMark = .abandoned ∨ (r.endMark = .none ∧ r.takenWhole = false) →
                v.fli = s.fli ∧ v.wq.held = s.wq.held ∧ v.wq.early = s.wq.early)
            ∧ (∀ o f, (r.endMark = .cancelled ∧ o = .cancelled) ∨ (r.endMark = .none ∧ r.takenWhole = true
                  ∧ o = (if ∃ i ∈ r.items, i.state = .held then .held
                    else if ∃ i ∈ r.items, i.state = .mailed then .mailed else .failed)) →
                f = closedFrame order 255 o (r.mailedTags.map (·.1)) →
                (o ≠ .held ∨ (∃ i ∈ r.items, i.state ≠ .held)
                    ∨ (∀ g ∈ s.au.held, g.kind = .take → g.subject = order → g.detail ≠ 255) →
                  s.fli.txState ≠ .muted → v.wq.early = s.wq.early
                    ∧ (s.fli.queue.length ≤ 15 →
                      v.fli = { s.fli with queue := s.fli.queue ++ [f] } ∧ v.wq.held = s.wq.held)
                    ∧ (15 < s.fli.queue.length → v.fli = s.fli ∧ v.wq.held = s.wq.held ++ [f]))
                ∧ (o = .held → (∀ i ∈ r.items, i.state = .held) →
                  (∃ g ∈ s.au.held, g.kind = .take ∧ g.subject = order ∧ g.detail = 255) →
                  v.fli = s.fli ∧ v.wq.held = s.wq.held ∧ v.wq.early = s.wq.early ++ [f]))
            ∧ v.au = s.au ∧ v.isc = s.isc ∧ v.shu = s.shu ∧ v.lu = s.lu ∧ v.mlc = s.mlc ∧ v.rti = s.rti ∧ v.pp = s.pp))

/-! ## The image store -/

/-- R70, R72 to R78, R83, R87: the images wanted are those that planned cartridges not written name, in queue order and
placement order, and that have no entry or a Damaged one. The image store goes on in this order (log 26): a stream whose
image no placement pins any more stops, its entry freed and its held FETCH discarded; Damaged entries without a pin are
freed; Waiting streams try again; an Idle stream of a station not Muted takes up the first wanted image that the other
stream does not hold. It reuses the Damaged entry, or takes the lowest free one (log 32), or the one whose Present entry
it evicts, makes its candidate list (the stations whose BIDs flagged the image for the record of the first planned
cartridge that names it, in the order heard, then station 0), and asks the first; with no entry to be had it waits, and
tries again. Chunks are allocated by evicting Present entries with no pins, oldest use stamp first, only as many as are
needed, and the lowest-numbered free ones are taken and linked in ascending order; with too few to be had nothing is
evicted. (The model's choices: the use stamp of a new entry is 0, log 50; a
stream that waits for an entry has no candidate list, which is made when the entry is had, log 59.) -/
def Obligations.FetchWalk : Prop :=
  (∀ s : State, wantedImages s = ((plansInOrder s).filter (fun e => !e.2.written)).flatMap (fun e =>
      (e.2.placements.filterMap (placementImage s e.2)).filter
        (fun n => (entryOf s n).all (fun d => d.state == .damaged)))
      ∧ settleStore s = walkIdle (walkIdle (retryWaiting (retryWaiting (freeDamaged
          (stopUnwanted (stopUnwanted s 0) 1)) 0) 1) 0) 1)
    ∧ (∀ (x : StreamNo) (s v : State), v = stopUnwanted s x →
      ((∀ n, (fetchOf s x).image = some n → placementPins s n ≠ 0) → v = s)
      ∧ ∀ n, (fetchOf s x).image = some n → placementPins s n = 0 →
        fetchOf v x = .idle ∧ fetchOf v (otherStream x) = fetchOf s (otherStream x)
        ∧ (∀ i, dirAt v i = if (fetchOf s x).entry = some i then none else dirAt s i)
        ∧ v.isc.chains = s.isc.chains.filter (fun c => (fetchOf s x).entry != some c.2.owner)
        ∧ v.isc.held = s.isc.held.filter
            (fun f => !(f.kind == .fetch && f.subject == BitVec.ofNat 32 (imageCode n)))
        ∧ v.isc.store = s.isc.store ∧ v.wq = s.wq ∧ v.fli = s.fli ∧ v.de = s.de ∧ v.pp = s.pp)
    ∧ (∀ s v : State, s.tablesSound → v = freeDamaged s →
      (∀ i, dirAt v i = (dirAt s i).filter (fun e => !(e.state == .damaged && pinCount s e.name == 0)))
      ∧ v.isc.chains = s.isc.chains.filter (fun c =>
          !((dirAt s c.2.owner).any (fun e => e.state == .damaged && pinCount s e.name == 0)))
      ∧ v.isc.fetch0 = s.isc.fetch0 ∧ v.isc.fetch1 = s.isc.fetch1 ∧ v.isc.serve0 = s.isc.serve0
      ∧ v.isc.serve1 = s.isc.serve1 ∧ v.isc.store = s.isc.store ∧ v.wq = s.wq ∧ v.fli = s.fli ∧ v.pp = s.pp)
    ∧ (∀ (s : State) (n : ImageName),
      ((∀ e ∈ plansInOrder s, ∀ p ∈ e.2.placements, placementImage s e.2 p ≠ some n) → candidateList s n = [0])
      ∧ ∀ (before after : Table PlannedCart) (e : Nat × PlannedCart) (r : WorkRecord),
        plansInOrder s = before ++ e :: after →
        (∀ d ∈ before, ∀ p ∈ d.2.placements, placementImage s d.2 p ≠ some n) →
        (∃ p ∈ e.2.placements, placementImage s e.2 p = some n) → recordOf s e.2.order = some r →
        candidateList s n = (r.sources.filter (fun x => x.1 != 0 && r.items.any (fun i =>
          i.kind == .audio && i.title == n.title && i.version == n.version && x.2.getLsbD i.index))).map (·.1) ++ [0])
    ∧ (∀ (s : State) (n : ImageName), n ∈ wantedImages s ↔
    (∃ r ∈ s.wq.records, ∃ b ∈ r.bundles, ∃ e ∈ s.wq.plan, e.2.order = r.order ∧ e.2.bundle = b.number
      ∧ e.2.written = false ∧ ∃ p ∈ e.2.placements, placementImage s e.2 p = some n)
    ∧ ∀ d, entryOf s n = some d → d.state = .damaged)
    ∧ (∀ (s : State) (x : StreamNo),
      ((fetchOf s x).state ≠ .idle ∨ s.fli.txState = .muted
          ∨ (∀ n ∈ wantedImages s, (fetchOf s (otherStream x)).image = some n) → walkIdle s x = s)
      ∧ ∀ before n after, (fetchOf s x).state = .idle → s.fli.txState ≠ .muted →
        wantedImages s = before ++ n :: after → (∀ m ∈ before, (fetchOf s (otherStream x)).image = some m) →
        (fetchOf s (otherStream x)).image ≠ some n → walkIdle s x = takeUp x n s)
    ∧ (∀ (s : State) (n : ImageName), ∃ cs, candidateList s n = cs ++ [0] ∧ 0 ∉ cs)
    ∧ (∀ (x : StreamNo) (n : ImageName) (c : Station) (s : State), s.tablesSound → s.fli.txState ≠ .muted →
      s.fli.queue.length ≤ 15 → (candidateList s n).head? = some c →
      (∀ i e count, dirIndex s n = some i → dirAt s i = some e →
        count = min 64 ((if e.size = 0 then wantedSize s n else e.size) - e.complete) →
        takeUp x n s = setFetch x { FetchStream.idle with
            state := .asking, image := some n, entry := some i, candidates := candidateList s n
            askStart := e.complete, askCount := count }
          { s with
            fli := { s.fli with queue := s.fli.queue ++ [fetchFrame c n e.complete count] }
            isc := { s.isc with directory := Table.change i (fun e => { e with
              state := .arriving, source := some c, fails := 0 }) s.isc.directory } })
      ∧ (∀ i g count (d : DirEntry), dirIndex s n = none →
        (Table.firstFree 512 s.isc.directory = some i ∧ g = s)
          ∨ (Table.firstFree 512 s.isc.directory = none ∧ (evictees s).head? = some i ∧ g = freeEntry i s) →
        count = min 64 (wantedSize s n) →
        d = { name := n, size := 0, head := none, state := .arriving, useStamp := 0, complete := 0, source := some c
              fails := 0 } →
        takeUp x n s = setFetch x { FetchStream.idle with
            state := .asking, image := some n, entry := some i, candidates := candidateList s n
            askStart := 0, askCount := count }
          { g with
            fli := { s.fli with queue := s.fli.queue ++ [fetchFrame c n 0 count] }
            isc := { g.isc with directory := Table.put i d g.isc.directory } })
      ∧ (dirIndex s n = none → Table.firstFree 512 s.isc.directory = none → evictees s = [] →
        takeUp x n s = setFetch x { FetchStream.idle with state := .waiting, image := some n } s))
    ∧ (∀ (x : StreamNo) (s : State),
      ((fetchOf s x).state ≠ .waiting → retryWaiting s x = s)
      ∧ (∀ n, (fetchOf s x).state = .waiting → (fetchOf s x).image = some n → streamEntry s x = none →
        retryWaiting s x = takeUp x n s)
      ∧ (∀ i e, (fetchOf s x).state = .waiting → streamEntry s x = some (i, e) →
        (allocate i (ceilDiv e.size 64) s = none → retryWaiting s x = s)
        ∧ ∀ v, allocate i (ceilDiv e.size 64) s = some v → retryWaiting s x = ask x v))
    ∧ (∀ s : State, s.tablesSound →
      (∀ i, i ∈ evictees s ↔ ∃ e, dirAt s i = some e ∧ e.state = .present ∧ pinCount s e.name = 0)
      ∧ (evictees s).Pairwise (fun i j => ∀ d f, dirAt s i = some d → dirAt s j = some f →
          d.useStamp < f.useStamp ∨ (d.useStamp = f.useStamp ∧ i < j)))
    ∧ ∀ (i n : Nat) (e : DirEntry) (s : State), s.tablesSound → dirAt s i = some e → e.state ≠ .present →
      s.isc.chains.length ≤ s.cfl.settings.storeChunks →
      (allocate i n s = none ↔ freeChunks s + ((evictees s).map (chunksOwned s)).sum < n)
      ∧ ∀ v, allocate i n s = some v → ∃ m,
        (∀ k, k < m → freeChunks s + (((evictees s).take k).map (chunksOwned s)).sum < n)
        ∧ (∀ j, j ≠ i → dirAt v j = (if j ∈ (evictees s).take m then none else dirAt s j))
        ∧ (∃ e', dirAt v i = some e' ∧ { e' with head := e.head } = e)
        ∧ (∀ k, k < n → ∃ c, chunkAt v.isc.chains k ((dirAt v i).bind (·.head)) = some c
            ∧ c < s.cfl.settings.storeChunks ∧ (v.isc.chains.at? c).map (·.owner) = some i
            ∧ (∀ l, s.isc.chains.at? c = some l → l.owner ∈ (evictees s).take m)
            ∧ (∀ d, d < c → v.isc.chains.at? d ≠ none)
            ∧ ∀ d, chunkAt v.isc.chains (k + 1) ((dirAt v i).bind (·.head)) = some d → c < d)
        ∧ chunkAt v.isc.chains n ((dirAt v i).bind (·.head)) = none
        ∧ (∀ c l, s.isc.chains.at? c = some l → l.owner ∉ (evictees s).take m → v.isc.chains.at? c = some l)
        ∧ v.isc.store = s.isc.store ∧ v.isc.crcArea = s.isc.crcArea ∧ v.isc.useCounter = s.isc.useCounter

/-- R78, R79, R82, R77, R83: a busy source is asked again at its retry moment; a stream that has heard nothing for 500
ms fails: the first and second time on a sector it asks the same source again, the third time the next candidate, and
with none left the entry is freed and the stream Idle. (The silence timer stands off while the FETCH waits, log 22;
the source that is asked and the size that is assumed where the entry has none, log 41.) A timer that does not run or
is not due does nothing. -/
def Obligations.FetchTimersAskAgain : Prop :=
  (∀ (t d : Moment) (x : StreamNo) (i : Nat) (e : DirEntry) (name : ImageName) (n : Nat) (s : State),
    (fetchOf s x).retryAt = some d → d ≤ max s.clock t → (fetchOf s x).image = some name →
    streamEntry s x = some (i, e) → n = min 64 ((if e.size = 0 then wantedSize s name else e.size) - e.complete) →
    s.fli.txState ≠ .muted → s.fli.queue.length ≤ 15 →
    exec (.busyRetryTimeout t x) s = .next (setFetch x
      { fetchOf s x with state := .asking, askStart := e.complete, askCount := n, silence := none, retryAt := none }
      { s.at t with fli := { s.fli with queue := s.fli.queue ++ [fetchFrame (e.source.getD 0) name e.complete n] } }))
    ∧ (∀ (t d : Moment) (x : StreamNo) (i : Nat) (e : DirEntry) (name : ImageName) (n : Nat) (s : State),
      (fetchOf s x).silence = some d → d ≤ max s.clock t → (fetchOf s x).image = some name →
      streamEntry s x = some (i, e) → n = min 64 ((if e.size = 0 then wantedSize s name else e.size) - e.complete) →
      s.fli.txState ≠ .muted → s.fli.queue.length ≤ 15 →
      (e.fails + 1 < 3 → exec (.fetchSilenceTimeout t x) s = .next (fullStage (setFetch x
        { fetchOf s x with state := .asking, askStart := e.complete, askCount := n, silence := none, retryAt := none }
        { s.at t with
          fli := { s.fli with queue := s.fli.queue ++ [fetchFrame (e.source.getD 0) name e.complete n] }
          isc := { s.isc with
            directory := Table.change i (fun e => { e with fails := e.fails + 1 }) s.isc.directory } })))
      ∧ (∀ c, 3 ≤ e.fails + 1 → candidateAfter (e.source.getD 0) (fetchOf s x).candidates = some c →
        exec (.fetchSilenceTimeout t x) s = .next (fullStage (setFetch x
        { fetchOf s x with state := .asking, askStart := e.complete, askCount := n, silence := none, retryAt := none }
        { s.at t with
          fli := { s.fli with queue := s.fli.queue ++ [fetchFrame c name e.complete n] }
          isc := { s.isc with
            directory := Table.change i (fun e => { e with source := some c, fails := 0 }) s.isc.directory } }))))
    ∧ (∀ (t d : Moment) (x : StreamNo) (i : Nat) (e : DirEntry) (name : ImageName) (s : State),
      (fetchOf s x).silence = some d → d ≤ max s.clock t → (fetchOf s x).image = some name →
      streamEntry s x = some (i, e) → 3 ≤ e.fails + 1 →
      candidateAfter (e.source.getD 0) (fetchOf s x).candidates = none →
      ∃ v, exec (.fetchSilenceTimeout t x) s = .next (fullStage v) ∧ fetchOf v x = .idle ∧ dirAt v i = none
        ∧ v.isc.store = s.isc.store ∧ fetchOf v (otherStream x) = fetchOf s (otherStream x))
    ∧ ∀ (t : Moment) (x : StreamNo) (s : State),
      ((∀ d, (fetchOf s x).retryAt = some d → max s.clock t < d) →
          exec (.busyRetryTimeout t x) s = .next (s.at t))
        ∧ ((∀ d, (fetchOf s x).silence = some d → max s.clock t < d) →
          exec (.fetchSilenceTimeout t x) s = .next (s.at t))

/-- R58, R77, R79 to R82, R89: a stream takes an INFO while Asking or Receiving, and an IMAGE while it has an image,
from the source and with the name of its image; either restarts a running silence timer. INFO Absent, OtherVersion or of
a wrong size sends it to its next source, Busy too, or to wait 500 ms for station 0; Present opens the run, a first size
being reported to WQ and given chunks. An IMAGE outside the open run is counted and discarded, and at the strict setting
sends the stream to its next source; inside it the expected slice enters the receive buffer, the CRC is compared at
slice 63, and any other frame, a full buffer or a wrong CRC fails the stream. A failed stream asks its source for the
sector again, and after its third failure in a row its next source. A stream without a next source is stopped and the
items fail. A frame heard is seen by stream 0, then by stream 1. The model's choices: an INFO that opens the run starts
the silence timer, also before the FETCH has completed (log 79); a stream that asks again has its timer off until the
FETCH completes (log 22); where the entry has no size, or no source, the size and the source asked for are those of log
41. -/
def Obligations.InfoAndImageFeedTheStream : Prop :=
  (∀ (f : Received) (x : StreamNo) (s g : State), g = setFetch x { fetchOf s x with silence := (fetchOf s x).silence.map (fun _ => s.clock + 16000000) } s →
    ((fetchOf s x).image ≠ some (imageNameOf f.subject.toNat) ∨ streamSource s x ≠ some f.source →
      infoAt f s x = s ∧ imageAt f s x = s)
    ∧ ((fetchOf s x).state ≠ .asking → (fetchOf s x).state ≠ .receiving → infoAt f s x = s)
    ∧ ∀ i e, streamEntry s x = some (i, e) → (fetchOf s x).image = some (imageNameOf f.subject.toNat) →
      e.source = some f.source →
      ((fetchOf s x).state = .asking ∨ (fetchOf s x).state = .receiving →
        (detailByte f 2 = 1 ∨ detailByte f 2 = 3 → infoAt f s x = nextSource x g)
        ∧ (3 < detailByte f 2 → infoAt f s x = g)
        ∧ (detailByte f 2 = 2 → f.source ≠ 0 → infoAt f s x = nextSource x g)
        ∧ (detailByte f 2 = 2 → f.source = 0 → infoAt f s x = setFetch x { fetchOf s x with
            state := .retrying, silence := none, retryAt := some (s.clock + 16000000) } s)
        ∧ (detailByte f 2 = 0 → detailLow f = 0 ∨ 16383 < detailLow f ∨ (e.size ≠ 0 ∧ e.size ≠ detailLow f) →
          infoAt f s x = nextSource x g)
        ∧ (detailByte f 2 = 0 → 1 ≤ detailLow f → detailLow f ≤ 16383 → e.size = detailLow f →
          ((fetchOf s x).state = .receiving → infoAt f s x = g)
          ∧ ((fetchOf s x).state = .asking → infoAt f s x = openRun x (detailLow f) g))
        ∧ (∀ h, detailByte f 2 = 0 → 1 ≤ detailLow f → detailLow f ≤ 16383 → e.size = 0 →
          h = reportSize e.name (detailLow f) { g with isc := { g.isc with
            directory := Table.change i (fun e => { e with size := detailLow f }) g.isc.directory } } →
          (placementPins h e.name = 0 → infoAt f s x = stopFetch x h)
          ∧ (placementPins h e.name ≠ 0 → h.cfl.settings.storeChunks < ceilDiv (detailLow f) 64 →
            infoAt f s x = unobtainable x h)
          ∧ (placementPins h e.name ≠ 0 → ceilDiv (detailLow f) 64 ≤ h.cfl.settings.storeChunks →
            (∀ v, allocate i (ceilDiv (detailLow f) 64) h = some v → infoAt f s x = openRun x (detailLow f) v)
            ∧ (allocate i (ceilDiv (detailLow f) 64) h = none → infoAt f s x
              = setFetch x { fetchOf h x with state := .waiting, silence := none } h))))
      ∧ ((fetchOf s x).state ≠ .receiving → imageAt f s x = g)
      ∧ ((fetchOf s x).state = .receiving →
        (detailLow f < (fetchOf s x).runStart ∨ (fetchOf s x).runEnd ≤ detailLow f ∨ 63 < detailByte f 2 →
          (s.cfl.settings.guardMode = .lenient → imageAt f s x = { g with isc := { g.isc with
            guardDiscards := min 65535 (s.isc.guardDiscards + 1) } })
          ∧ (s.cfl.settings.guardMode = .strict → imageAt f s x = nextSource x { g with isc := { g.isc with
            guardDiscards := min 65535 (s.isc.guardDiscards + 1) } }))
        ∧ ((fetchOf s x).runStart ≤ detailLow f → detailLow f < (fetchOf s x).runEnd → detailByte f 2 ≤ 63 →
          (detailLow f ≠ (fetchOf s x).sector ∨ detailByte f 2 ≠ (fetchOf s x).slice
              ∨ f.payload.length ≠ (if detailByte f 2 = 63 then 1028 else 1024)
              ∨ ¬ (detailByte f 3 % 2 = 1 ↔ detailByte f 2 = 63 ∧ detailLow f + 1 = (fetchOf s x).runEnd)
              ∨ (fetchOf s x).buffer ≠ none → imageAt f s x = failStream x g)
          ∧ ∀ (fs : FetchStream) (data : List Byte), fs = fetchOf g x → data = f.payload.take 1024 →
            detailLow f = fs.sector → detailByte f 2 = fs.slice → fs.buffer = none →
            f.payload.length = (if fs.slice = 63 then 1028 else 1024) →
            (detailByte f 3 % 2 = 1 ↔ fs.slice = 63 ∧ fs.sector + 1 = fs.runEnd) →
            (fs.slice < 63 → imageAt f s x = setFetch x { fs with
              slice := fs.slice + 1, crc := crc32Run fs.crc data
              buffer := some { sector := fs.sector, slice := fs.slice, data := data, check := none } } g)
            ∧ (fs.slice = 63 → ~~~crc32Run fs.crc data = BitVec.ofNat 32 (numAt f.payload 1024 4) →
              imageAt f s x = setFetch x { fs with
                sector := fs.sector + 1, slice := 0, crc := crc32Init
                buffer := some { sector := fs.sector, slice := 63, data := data
                                 check := some (BitVec.ofNat 32 (numAt f.payload 1024 4)) } } g)
            ∧ (fs.slice = 63 → ~~~crc32Run fs.crc data ≠ BitVec.ofNat 32 (numAt f.payload 1024 4) →
              imageAt f s x = failStream x (setFetch x { fs with
                buffer := some { sector := fs.sector, slice := 63, data := data, check := none } } g)))))
    ∧ (∀ (x : StreamNo) (size : Nat) (s : State), openRun x size s = setFetch x { fetchOf s x with
        state := .receiving, runStart := (fetchOf s x).askStart
        runEnd := min ((fetchOf s x).askStart + (fetchOf s x).askCount) size
        sector := (fetchOf s x).askStart, slice := 0, crc := crc32Init, silence := some (s.clock + 16000000)
        retryAt := none } s)
    ∧ (∀ (f : Received) (s : State), hearInfo f s = infoAt f (infoAt f s 0) 1
      ∧ hearImage f s = imageAt f (imageAt f s 0) 1)
    ∧ ∀ (x : StreamNo) (i n : Nat) (e : DirEntry) (name : ImageName) (s : State),
      streamEntry s x = some (i, e) → (fetchOf s x).image = some name →
      n = min 64 ((if e.size = 0 then wantedSize s name else e.size) - e.complete) →
      (∀ c, candidateAfter (e.source.getD 0) (fetchOf s x).candidates = some c → s.fli.txState ≠ .muted →
        s.fli.queue.length ≤ 15 → nextSource x s = setFetch x { fetchOf s x with
            state := .asking, askStart := e.complete, askCount := n, silence := none, retryAt := none }
          { s with
            fli := { s.fli with queue := s.fli.queue ++ [fetchFrame c name e.complete n] }
            isc := { s.isc with
              directory := Table.change i (fun e => { e with source := some c, fails := 0 }) s.isc.directory } })
      ∧ (candidateAfter (e.source.getD 0) (fetchOf s x).candidates = none →
        nextSource x s = failImage name (stopFetch x s))
      ∧ ∀ g, g = { s with isc := { s.isc with
            directory := Table.change i (fun e => { e with fails := e.fails + 1 }) s.isc.directory } } →
        (2 ≤ e.fails → failStream x s = nextSource x g)
        ∧ ∀ source, e.fails ≤ 1 → e.source = some source → s.fli.txState ≠ .muted → s.fli.queue.length ≤ 15 →
          failStream x s = setFetch x { fetchOf s x with
              state := .asking, askStart := e.complete, askCount := n, silence := none, retryAt := none }
            { g with fli := { s.fli with queue := s.fli.queue ++ [fetchFrame source name e.complete n] } }

/-- R84, R74, R85: a FETCH for the station itself with a count of 1 to 64 ends the streams that send to the same
requester for the same title (one that has the store port gives it up, log 19), and is answered with one INFO: Absent
without a Present entry of the title, OtherVersion without one of the version, Present with the size when the start is
not below it, Busy while both streams send; else the lowest free stream opens at the start sector on the run cut off at
the size, the image takes a use stamp, and INFO Present is offered. The stream sends once its INFO has been sent, which
is the one that its Destination and Subject name (the model's choice, log 84): an IMAGE frame to the requester with the
image's name, the sector, the slice and the last-of-run flag (slice 63 of the run's last sector), and the slice's bytes,
followed on slice 63 by the stored CRC, least significant byte first. Another FETCH changes nothing. (The size that goes
with a status other than Present is log 17.) -/
def Obligations.FetchAnswered : Prop :=
  (∀ (f : Received) (s : State), f.dest ≠ s.cfl.station.toNat ∨ detailByte f 2 = 0 ∨ 64 < detailByte f 2 →
    hearFetch f s = s)
    ∧ (∀ (f : Received) (name : ImageName) (s g : State), f.dest = s.cfl.station.toNat → 1 ≤ detailByte f 2 →
      detailByte f 2 ≤ 64 → name = imageNameOf f.subject.toNat →
      g = { s with isc := { s.isc with
        serve0 := s.isc.serve0.filter (fun v => !(v.requester == f.source && v.name.title == name.title))
        serve1 := s.isc.serve1.filter (fun v => !(v.requester == f.source && v.name.title == name.title))
        port := s.isc.port.filter (fun u => match u with
          | .serve x => !(serveOf s x).any (fun v => v.requester == f.source && v.name.title == name.title)
          | _ => true) } } →
      ((∀ e ∈ s.isc.directory, e.2.state = .present → e.2.name.title ≠ name.title) →
        hearFetch f s = offerFrame .isc (infoFrame f.source name (Config.infoSize 1).toNat .absent) g)
      ∧ ((∃ e ∈ s.isc.directory, e.2.state = .present ∧ e.2.name.title = name.title) →
        (∀ e ∈ s.isc.directory, e.2.state = .present → e.2.name ≠ name) →
        hearFetch f s = offerFrame .isc (infoFrame f.source name (Config.infoSize 3).toNat .otherVersion) g)
      ∧ ∀ i e, (i, e) ∈ s.isc.directory → e.state = .present → e.name = name →
        (∀ d ∈ s.isc.directory, d.2.state = .present → d.2.name = name → d = (i, e)) →
        (e.size ≤ detailLow f → hearFetch f s = offerFrame .isc (infoFrame f.source name e.size .present) g)
        ∧ (detailLow f < e.size → g.isc.serve0 ≠ none → g.isc.serve1 ≠ none →
          hearFetch f s = offerFrame .isc (infoFrame f.source name (Config.infoSize 2).toNat .busy) g)
        ∧ ∀ x, detailLow f < e.size → (x = 0 ∧ g.isc.serve0 = none) ∨ (x = 1 ∧ g.isc.serve0 ≠ none ∧ g.isc.serve1 = none) →
          hearFetch f s = offerFrame .isc (infoFrame f.source name e.size .present) (setServe x
            (some { requester := f.source, name := name, entry := i, sector := detailLow f, slice := 0
                    runEnd := min (detailLow f + detailByte f 2) e.size, infoSent := false, ready := none
                    onLine := false })
            { g with isc := { g.isc with
              useCounter := min 4294967295 (s.isc.useCounter + 1)
              directory := Table.change i (fun e => { e with
                useStamp := min 4294967295 (s.isc.useCounter + 1) }) s.isc.directory } }))
    ∧ ∀ (f : Frame) (x : StreamNo) (s : State),
      (∀ v, serveOf s x = some v → destOf v.requester = f.dest → f.subject = BitVec.ofNat 32 (imageCode v.name) →
        infoCompleted f s x = setServe x (some { v with infoSent := true }) s)
      ∧ ((∀ v, serveOf s x = some v → destOf v.requester ≠ f.dest ∨ f.subject ≠ BitVec.ofNat 32 (imageCode v.name)) →
        infoCompleted f s x = s)
      ∧ (serveReady s x = true ↔ ∃ v, serveOf s x = some v ∧ v.infoSent = true ∧ v.ready ≠ none)
      ∧ ∀ (v : ServeStream) (data : List Byte) (check : Option Check32), v.ready = some (data, check) →
        v.sector < 65536 → v.slice < 64 → serveFrame v = {
          dest := BitVec.ofNat 8 v.requester.toNat, kind := .image, subject := BitVec.ofNat 32 (imageCode v.name)
          detail := BitVec.ofNat 32 (v.sector + 65536 * v.slice
            + (if v.slice = 63 ∧ v.sector + 1 = v.runEnd then 16777216 else 0))
          payload := data ++ check.elim [] (fun c => bytesLE 4 c.toNat) }

/-- R81, R89: the slice in the receive buffer stands in its place of the entry's chain, every other byte of the store
reads as before, the buffer is empty and the port free. With slice 63 of a sector whose CRC agreed the check value
stands at the sector's physical position, the complete count is the sector number plus 1 and the fail count 0; when that
reaches the size the entry is Present with a use stamp and the stream Idle (whatever the stream's state by then, log
23); when it reaches the end of the run first, a Receiving stream asks the same source for the next run (R78), its
silence timer off until the FETCH completes (log 22), with the size and the source of log 41 where the entry has none
(the model's choices). -/
def Obligations.WrittenSlicesReachTheStore : Prop :=
  (∀ (t : Moment) (x : StreamNo) (b : RxSlice) (i : Nat) (e : DirEntry) (phys : Nat) (s : State),
    s.isc.port = some (.fetch x) → (fetchOf s x).buffer = some b → streamEntry s x = some (i, e) →
    physical s e b.sector = some phys → s.storeCanonical →
    ∃ v, exec (.fetchSliceWritten t x) s = .next (storeStage v) ∧ v.isc.port = none
      ∧ (∀ a, v.isc.store.read a
          = if 65536 * phys + 1024 * b.slice ≤ a ∧ a < 65536 * phys + 1024 * b.slice + b.data.length
            then b.data.getD (a - (65536 * phys + 1024 * b.slice)) 0 else s.isc.store.read a)
      ∧ (storeStage v).isc.store = v.isc.store ∧ (storeStage v).isc.crcArea = v.isc.crcArea
      ∧ fetchOf v (otherStream x) = fetchOf s (otherStream x)
      ∧ (b.check = none → v.isc.crcArea = s.isc.crcArea ∧ v.isc.directory = s.isc.directory ∧ v.fli = s.fli
          ∧ fetchOf v x = { fetchOf s x with buffer := none })
      ∧ ∀ c, b.check = some c →
        (∀ p, checkOf v p = if p = phys then c else checkOf s p)
        ∧ (b.sector + 1 = e.size →
            dirAt v i = some { e with state := .present, source := none, complete := b.sector + 1, fails := 0,
                                      useStamp := min 4294967295 (s.isc.useCounter + 1) }
              ∧ fetchOf v x = .idle ∧ v.isc.useCounter = min 4294967295 (s.isc.useCounter + 1))
        ∧ (b.sector + 1 ≠ e.size → dirAt v i = some { e with complete := b.sector + 1, fails := 0 }
            ∧ (fetchOf v x).buffer = none ∧ v.isc.useCounter = s.isc.useCounter
            ∧ ((fetchOf s x).state ≠ .receiving ∨ b.sector + 1 ≠ (fetchOf s x).runEnd →
              fetchOf v x = { fetchOf s x with buffer := none } ∧ v.fli = s.fli)
            ∧ ∀ name n, (fetchOf s x).state = .receiving → b.sector + 1 = (fetchOf s x).runEnd →
              (fetchOf s x).image = some name →
              n = min 64 ((if e.size = 0 then wantedSize s name else e.size) - (b.sector + 1)) →
              fetchOf v x = { fetchOf s x with buffer := none, state := .asking, askStart := b.sector + 1,
                                               askCount := n, silence := none, retryAt := none }
              ∧ (s.fli.txState ≠ .muted → s.fli.queue.length ≤ 15 → v.fli = { s.fli with
                  queue := s.fli.queue ++ [fetchFrame (e.source.getD 0) name (b.sector + 1) n] })))
    ∧ ∀ (t : Moment) (x : StreamNo) (s : State), s.isc.port ≠ some (.fetch x) →
      exec (.fetchSliceWritten t x) s = .next (s.at t)

/-- R71, R85 to R88, R101, R104: a granted read of a serve stream brings it the 1024 bytes of its slice as the store
holds them (after what it has lost, log 5), with the stored check value for slice 63. A scrub expiry takes the next
stored sector from the cursor on, wrapping at the capacity: the first below the size of a Present entry (R70, R86), which
is to be had unless there is none at all. It moves the cursor past it and sets the next expiry an interval later; one that comes
while a scrub read runs, or finds no sector, reads nothing; an interval of 0 turns scrub off. A sector read for scrub or
for the write slot is checked by its CRC-32 against the CRC area: when it passes, scrub changes nothing and the write
slot is full; when it fails the image is Damaged, unless its entry is no longer Present: its entry is Damaged, or freed
without a pin, its serve streams end with INFO Absent offered to their requesters, the cartridges being written or
verified from it lose their links and are erased (Dirty outside the rack), and an Assigned one waits (log 43). (Erasing
at once, log 71; stream 0 before 1, log 70.) -/
def Obligations.StoreReadsAreServedAndChecked : Prop :=
  ((∀ (t : Moment) (x : StreamNo) (fade : StoreFade) (w : ServeStream) (e : DirEntry) (phys : Nat) (s : State),
    s.isc.port = some (.serve x) → serveOf s x = some w → dirAt s w.entry = some e →
    physical s e w.sector = some phys →
    ∃ u, exec (.serveSliceRead t x fade) s = .next (rackStage u)
      ∧ u.isc.store = fade.bytes.foldl (fun m c => Memory.write c.1 c.2 m) s.isc.store
      ∧ serveOf u x = some { w with ready := some (Memory.readAll u.isc.store (65536 * phys + 1024 * w.slice) 1024,
          if w.slice = 63 then some (checkOf u phys) else none) }
      ∧ serveOf u (otherStream x) = serveOf s (otherStream x) ∧ u.isc.directory = s.isc.directory
      ∧ u.isc.chains = s.isc.chains ∧ u.isc.fetch0 = s.isc.fetch0 ∧ u.isc.fetch1 = s.isc.fetch1
      ∧ u.isc.port = none ∧ u.fli = s.fli ∧ u.wq = s.wq ∧ u.de = s.de ∧ u.pp = s.pp)
    ∧ (∀ (t : Moment) (x : StreamNo) (fade : StoreFade) (s : State), s.isc.port ≠ some (.serve x) →
      exec (.serveSliceRead t x fade) s = .next (s.at t))
    ∧ (∀ (t : Moment) (s : State), s.cfl.settings.scrubInterval ≠ 0 → s.isc.scrubNext ≤ max s.clock t →
      (∀ p i, s.isc.scrubRead = none → nextScrub s = some (p, i) →
        exec (.scrubExpiry t) s = .next (grantPort { s.at t with isc := { s.isc with
          scrubNext := s.isc.scrubNext + 3200000 * s.cfl.settings.scrubInterval
          scrubRead := some { sector := p, entry := i, discard := false }
          scrubCursor := (p + 1) % (64 * s.cfl.settings.storeChunks) } }))
      ∧ (s.isc.scrubRead ≠ none ∨ nextScrub s = none →
        exec (.scrubExpiry t) s = .next (grantPort { s.at t with isc := { s.isc with
          scrubNext := s.isc.scrubNext + 3200000 * s.cfl.settings.scrubInterval } })))
    ∧ (∀ (t : Moment) (s : State), s.cfl.settings.scrubInterval = 0 ∨ max s.clock t < s.isc.scrubNext →
      exec (.scrubExpiry t) s = .next (s.at t))
    ∧ ∀ (s : State) (capacity : Nat) (stored : Nat → Nat → Prop), s.tablesSound →
      capacity = 64 * s.cfl.settings.storeChunks →
      (∀ p i, stored p i ↔ ∃ e k c, dirAt s i = some e ∧ e.state = .present ∧ k < e.size
        ∧ chunkAt s.isc.chains (k / 64) e.head = some c ∧ p = 64 * c + k % 64) →
      (nextScrub s = none ↔ ∀ p i, ¬ stored p i)
      ∧ (∀ p i, nextScrub s = some (p, i) → stored p i ∧ ∀ q j, stored q j → scrubDistance s p ≤ scrubDistance s q)
      ∧ ∀ p, p < capacity → s.isc.scrubCursor < capacity → scrubDistance s p =
          if s.isc.scrubCursor ≤ p then p - s.isc.scrubCursor else capacity + p - s.isc.scrubCursor)
    ∧ ((∀ (t : Moment) (fade : StoreFade) (r : ScrubRead) (f s : State), f = applyFade fade (s.at t) →
    s.isc.port = some .scrub → s.isc.scrubRead = some r →
    (r.discard = true ∨ crc32 (Memory.readAll f.isc.store (65536 * r.sector) 65536) = checkOf f r.sector →
      exec (.scrubSectorRead t fade) s
        = .next (storeStage { f with isc := { f.isc with port := none, scrubRead := none } }))
    ∧ (r.discard = false → crc32 (Memory.readAll f.isc.store (65536 * r.sector) 65536) ≠ checkOf f r.sector →
      ((dirAt s r.entry).map (·.state) = some .present →
        ∃ v, exec (.scrubSectorRead t fade) s = .next (storeStage v) ∧ damageLeaves r.entry f v)
      ∧ ((dirAt s r.entry).map (·.state) ≠ some .present → exec (.scrubSectorRead t fade) s
        = .next (storeStage { f with isc := { f.isc with port := none, scrubRead := none } }))))
    ∧ (∀ (t : Moment) (fade : StoreFade) (k : SocketNo) (phys i : Nat) (f s : State), f = applyFade fade (s.at t) →
      s.isc.port = some .duplicator → s.de.writeSlot = some ⟨k, .filling phys i⟩ →
      (crc32 (Memory.readAll f.isc.store (65536 * phys) 65536) = checkOf f phys →
        exec (.writeSlotFilled t fade) s = .next (storeStage { f with
          isc := { f.isc with port := none }
          de := { f.de with
            writeSlot := some ⟨k, .full (Memory.readAll f.isc.store (65536 * phys) 65536)⟩
            readSlot := f.de.readSlot.map (fun r => { r with behind := false }) } }))
      ∧ (crc32 (Memory.readAll f.isc.store (65536 * phys) 65536) ≠ checkOf f phys →
        ((dirAt s i).map (·.state) = some .present →
          ∃ v, exec (.writeSlotFilled t fade) s = .next (storeStage v) ∧ damageLeaves i f v ∧ v.de.writeSlot = none)
        ∧ ((dirAt s i).map (·.state) ≠ some .present →
          ∃ v, exec (.writeSlotFilled t fade) s = .next (storeStage v) ∧ v.de.writeSlot = none ∧ v.isc.directory = s.isc.directory
            ∧ v.pp = s.pp)))
    ∧ ∀ (t : Moment) (fade : StoreFade) (s : State),
      (s.isc.port ≠ some .scrub → exec (.scrubSectorRead t fade) s = .next (s.at t))
        ∧ (s.isc.port ≠ some .duplicator → exec (.writeSlotFilled t fade) s = .next (s.at t)))

/-! ## The duplicator rack and the pool -/

/-- R88, R95, R97, R98, R103 to R106, R110: a slice access of a stream that has the store port keeps it (one whose
stream has ended is over, log 19); else the port goes to a waiting user of the first class (fetch writes, duplicator,
serve reads, scrub), of two streams to the one not granted last. A socket requests the bus to read its header while
Identifying, and while Busy with its cartridge ready: for a write when the write slot is full for it, for an erase
command, or for a read back while the read slot is empty. The free bus goes to the first requesting socket after the
last-granted one, with the read limit of its access class, the address of the step (identity area; cartridge start + j;
sector 0; erase group), the address phases of its class (an erase group as a sector, log 51) and the bytes per strobe of
its bus width; the grant of the header write makes the record Writing. (The other DE-class use of the store port, a
check value, goes in the order requested: FailuresRewriteOnceThenFault; when the port leaves the sector read for another
user, the slice of it that goes before such a check is over, log 42.) -/
def Obligations.PortAndBusAreGranted : Prop :=
  (∀ (s : State) (x : StreamNo),
    (portWants s (.fetch x) = true ↔ (fetchOf s x).buffer ≠ none)
      ∧ (portWants s (.serve x) = true ↔ ∃ v, serveOf s x = some v ∧ v.ready = none)
      ∧ (portWants s .duplicator = true ↔ ∃ k p i, s.de.writeSlot = some ⟨k, .filling p i⟩)
      ∧ (portWants s .scrub = true ↔ s.isc.scrubRead ≠ none)
      ∧ (∀ u, s.isc.port = some u → portWants s u = true → u = .fetch x ∨ u = .serve x → grantPort s = s))
    ∧ (∀ s v : State, v = grantPort s →
      (∀ x, s.isc.port = some (.fetch x) ∨ s.isc.port = some (.serve x) → ∀ u, s.isc.port = some u → portWants s u = false) →
      { v.isc with port := none, lastFetch := 0, lastServe := 0 } = { s.isc with port := none, lastFetch := 0, lastServe := 0 }
      ∧ { v with isc := s.isc, de := { v.de with readSlot := s.de.readSlot } } = s
      ∧ v.de.readSlot = (if s.isc.port = some .duplicator ∧ v.isc.port ≠ some .duplicator
          then s.de.readSlot.map (fun r => { r with behind := false }) else s.de.readSlot)
      ∧ ((∀ u, portWants s u = false) → v.isc.port = none ∧ v.isc.lastFetch = s.isc.lastFetch
          ∧ v.isc.lastServe = s.isc.lastServe)
      ∧ ∀ w, portWants s w = true → ∃ u, v.isc.port = some u ∧ portWants s u = true
        ∧ (∀ z, portWants s z = true → u.rank ≤ z.rank)
        ∧ (∀ x, u = .fetch x → v.isc.lastFetch = x ∧ (portWants s (.fetch (otherStream x)) = true → x ≠ s.isc.lastFetch))
        ∧ (∀ x, u = .serve x → v.isc.lastServe = x ∧ (portWants s (.serve (otherStream x)) = true → x ≠ s.isc.lastServe))
        ∧ ((∀ x, u ≠ .fetch x) → v.isc.lastFetch = s.isc.lastFetch)
        ∧ ((∀ x, u ≠ .serve x) → v.isc.lastServe = s.isc.lastServe))
    ∧ (∀ (s : State) (k : SocketNo), (socketOf s k = none → requestOf s k = none)
      ∧ ∀ e, socketOf s k = some e →
        (e.state = .identifying → requestOf s k = if s.de.readSlot = none then some .headerRead else none)
        ∧ (e.state = .holding ∨ e.state = .refused ∨ (e.state = .busy ∧ (e.deadline ≠ none ∨ e.silent = true)) →
          requestOf s k = none)
        ∧ ∀ op, e.state = .busy → e.deadline = none → e.silent = false → e.op = some op →
          (op = .headerWrite ∨ op = .directoryWrite ∨ (∃ p j, op = .sectorWrite p j) ∨ (∃ rw, op = .eraseHeader rw) →
            ((∃ bytes, s.de.writeSlot = some ⟨k, .full bytes⟩) → requestOf s k = some .write)
            ∧ ((∀ bytes, s.de.writeSlot ≠ some ⟨k, .full bytes⟩) → requestOf s k = none))
          ∧ ((∃ rw g, op = .erase rw g) → requestOf s k = some .erase)
          ∧ (op = .verifyDirectory ∨ (∃ p j, op = .verifySector p j) →
            requestOf s k = if s.de.readSlot = none then some .sectorRead else none))
    ∧ (∀ s : State, s.de.grant ≠ none ∨ (∀ k, requestOf s k = none) → grantBus s = s)
    ∧ ∀ (s : State) (n : Nat) (k : SocketNo) (e : SocketEntry) (op : BusOp), s.de.grant = none → n < 8 →
      k = s.de.lastGranted + 1 + Fin.ofNat 8 n → requestOf s k = some op → socketOf s k = some e →
      (∀ m, m < n → requestOf s (s.de.lastGranted + 1 + Fin.ofNat 8 m) = none) →
      ∃ v g, grantBus s = v ∧ v.de = { s.de with grant := some g, lastGranted := k } ∧ g.socket = k ∧ g.op = op
        ∧ v.wq = s.wq ∧ v.isc = s.isc ∧ v.pp = s.pp
        ∧ (e.op ≠ some .headerWrite ∨ e.state = .identifying → v.cp = s.cp)
        ∧ (∀ c r, e.state = .busy → e.op = some .headerWrite → e.serial = some c → cartOf s c = some r →
            ∃ r', cartOf v c = some r' ∧ r'.state = .writing ∧ r'.link = r.link)
        ∧ (e.state = .identifying → g.limit = some (s.clock + 256000) ∧ g.transfer = ⟨.identity, 1, 1⟩)
        ∧ ∀ h w, e.state = .busy → e.header = some h → w = (if h.width = 16 then 2 else 1) →
          (h.access ≤ 3 → g.limit = some (s.clock + 32000 * 2 ^ h.access))
          ∧ (e.op = some .headerWrite ∨ (∃ rw, e.op = some (.eraseHeader rw)) → g.transfer = ⟨.identity, 1, w⟩)
          ∧ (h.capClass ≤ 3 →
            (∀ p j pc pl, e.op = some (.sectorWrite p j) ∨ e.op = some (.verifySector p j) → planIn s k = some pc →
              pc.placements[p]? = some pl →
              g.transfer = ⟨.sector (pl.cartStart + j), if h.capClass ≤ 1 then 1 else 2, w⟩)
            ∧ (e.op = some .directoryWrite ∨ e.op = some .verifyDirectory →
              g.transfer = ⟨.sector 0, if h.capClass ≤ 1 then 1 else 2, w⟩)
            ∧ (∀ rw n, e.op = some (.erase rw n) → g.transfer = ⟨.group n, if h.capClass ≤ 1 then 1 else 2, w⟩))

/-- R56, R92, R94, R96, R99, R101 to R105, R110: what the rack begins, and the order of the stages (log 7): the check of
a waiting sector, the walk, the writes, the slot and the bus, the bundle states, the store port. An Empty socket whose
cartridge appears is Identifying. An owed walk offers every planned cartridge, in queue order, a cartridge: one that is
linked, written or waits for an image is passed. Linking makes the record Assigned with the link, gives the planned
cartridge the serial and starts by the cartridge's own G, clears its load-asked mark and sets the socket's attempt
number to 1; with no fit, LoadCartridges asks once for the smallest class that holds the nominal extent. A Holding
socket whose Assigned cartridge has every image begins the header write. The empty write slot is filled for the first
writing socket after the last-granted one: with the header image (erased flag clear, or after an erase set and the wear
raised), with a sector to be read from the store, the image being used at a placement's first (its use stamp is taken as
the fill begins, the model's choice, log 85), or with the directory image. A posted write empties the slot and ends the
grant, and the cartridge programs for at most the program limit of its access class; an erase command ends the grant and
runs the group erase limit. -/
def Obligations.RackWorkBegins : Prop :=
  (∀ (t : Moment) (k : SocketNo) (s : State), socketOf s k = none →
    exec (.socketPresent t k) s = .next (rackStage { s.at t with de := { s.de with
      sockets := Table.put k.val { state := .identifying, serial := none, header := none, op := none, attempt := 1,
                                   deadline := none, stale := false, silent := false, dirCheck := 0 } s.de.sockets } }))
    ∧ (∀ (t : Moment) (k : SocketNo) (s : State), socketOf s k ≠ none →
      exec (.socketPresent t k) s = .next (s.at t))
    ∧ (∀ (t : Moment) (l : Option Moment) (tr : Transfer) (k : SocketNo) (e : SocketEntry) (h : Header) (s : State),
      s.de.grant = some ⟨k, .write, l, tr⟩ → socketOf s k = some e → e.header = some h → h.access ≤ 3 →
      exec (.writePosted t) s = .next (rackStage { s.at t with de := { s.de with
        grant := none, writeSlot := none
        sockets := Table.change k.val (fun e => { e with deadline := some (max s.clock t + 3200000 * 2 ^ h.access) })
          s.de.sockets } }))
    ∧ (∀ (t : Moment) (l : Option Moment) (tr : Transfer) (k : SocketNo) (e : SocketEntry) (h : Header) (s : State),
      s.de.grant = some ⟨k, .erase, l, tr⟩ → socketOf s k = some e → e.header = some h → h.access ≤ 3 →
      exec (.eraseCommandSent t) s = .next (rackStage { s.at t with de := { s.de with
        grant := none
        sockets := Table.change k.val (fun e => { e with deadline := some (max s.clock t + 6400000 * 2 ^ h.access) })
          s.de.sockets } }))
    ∧ (∀ (t : Moment) (s : State),
      ((∀ k l tr, s.de.grant ≠ some ⟨k, .write, l, tr⟩) → exec (.writePosted t) s = .next (s.at t))
        ∧ ((∀ k l tr, s.de.grant ≠ some ⟨k, .erase, l, tr⟩) → exec (.eraseCommandSent t) s = .next (s.at t)))
    ∧ (∀ s : State, (s.de.walkDue = false ∨ s.cfl.phase ≠ .running → walk s = s)
      ∧ (s.de.walkDue = true → s.cfl.phase = .running →
        walk s = ((plansInOrder s).map (·.1)).foldl offerCart { s with de := { s.de with walkDue := false } })
      ∧ deStage s = grantBus (fillSlot ((List.finRange 8).foldl startWrite (walk s)))
      ∧ rackStage s = grantPort (renewBundles (deStage (checkStage s)))
      ∧ storeStage s = rackStage (settleStore (settleWork s))
      ∧ fullStage s = mlcStage (rackStage (settleStore (shelfStage (settleWork s))))
      ∧ (∀ x ∈ s.wq.plan, x ∈ plansInOrder s ↔
        ∃ r ∈ s.wq.records, r.order = x.2.order ∧ ∃ b ∈ r.bundles, b.number = x.2.bundle)
      ∧ (s.tablesSound → (plansInOrder s).Pairwise (fun (x y : Nat × PlannedCart) => ∃ m n : Nat,
        (s.wq.records[m]?).map (·.order) = some x.2.order ∧ (s.wq.records[n]?).map (·.order) = some y.2.order
          ∧ (m < n ∨ m = n ∧ (x.2.bundle < y.2.bundle ∨ x.2.bundle = y.2.bundle ∧ x.2.position ≤ y.2.position)))))
    ∧ (∀ (slot : Nat) (s : State), (s.wq.plan.at? slot = none → offerCart s slot = s)
      ∧ ∀ pc, s.wq.plan.at? slot = some pc →
        (pc.link ≠ none ∨ pc.written = true ∨ imagesPresent s pc = false → offerCart s slot = s)
        ∧ (imagesPresent s pc = true ↔ ∀ p ∈ pc.placements, ∃ r x e, recordOf s pc.order = some r
            ∧ r.item? p.item = some x ∧ entryOf s ⟨x.title, x.version⟩ = some e ∧ e.state = .present)
        ∧ (pc.loadAsked = true → askLoad slot pc s = s)
        ∧ (pc.loadAsked = false → ∃ v cls, askLoad slot pc s = v
          ∧ (s.pp.events.length < 32 → v.pp.events = s.pp.events ++ [.loadCartridges cls slot])
          ∧ v.wq.plan.at? slot = some { pc with loadAsked := true }
          ∧ (∀ m, m ≠ slot → v.wq.plan.at? m = s.wq.plan.at? m) ∧ v.wq.records = s.wq.records
          ∧ v.de = s.de ∧ v.cp = s.cp ∧ v.isc = s.isc ∧ v.fli = s.fli
          ∧ ∀ x g, g = 2 ^ s.cfl.settings.nominalE →
            x = g + (pc.placements.map (fun p => (p.length + g - 1) / g * g)).sum →
            cls ≤ 3 ∧ (x ≤ 32768 → x ≤ 4096 * 2 ^ cls) ∧ ∀ c, c < cls → 4096 * 2 ^ c < x)
        ∧ ∀ (k : SocketNo) (r : CartRecord) (e : SocketEntry), cartOf s r.serial = some r → r.state = .ready →
          socketOf s k = some e → ∃ v ps, linkCart slot k r s = v
            ∧ cartOf v r.serial = some { r with
                state := .assigned, link := some slot, stamp := min 4294967295 (s.cp.stamp + 1) }
            ∧ (∀ c, c ≠ r.serial → cartOf v c = cartOf s c)
            ∧ v.wq.plan.at? slot = some { pc with link := some r.serial, loadAsked := false, placements := ps }
            ∧ (∀ m, m ≠ slot → v.wq.plan.at? m = s.wq.plan.at? m) ∧ v.wq.records = s.wq.records
            ∧ ps.length = pc.placements.length
            ∧ (∀ (n : Nat) (p : Placement), pc.placements[n]? = some p → ps[n]? = some { p with
                cartStart := 2 ^ r.e + ((pc.placements.take n).map (fun q => (q.length + 2 ^ r.e - 1) / 2 ^ r.e * 2 ^ r.e)).sum })
            ∧ socketOf v k = some { e with attempt := 1 } ∧ (∀ j, j ≠ k → socketOf v j = socketOf s j)
            ∧ v.isc = s.isc ∧ v.pp = s.pp ∧ v.fli = s.fli)
    ∧ (∀ (k : SocketNo) (e : SocketEntry) (s : State), socketOf s k = some e →
      (∀ r pc, cartIn s k = some r → planIn s k = some pc → e.state = .holding → r.state = .assigned →
        imagesPresent s pc = true → startWrite s k = { s with de := { s.de with
          sockets := Table.change k.val (fun e => { e with state := .busy, op := some .headerWrite }) s.de.sockets } })
      ∧ (e.state ≠ .holding ∨ (∀ r, cartIn s k = some r → r.state ≠ .assigned)
          ∨ (∀ pc, planIn s k = some pc → imagesPresent s pc = false) → startWrite s k = s)
      ∧ ∀ op, nextStep s k = some op ↔
        e.state = .busy ∧ e.deadline = none ∧ e.silent = false ∧ e.op = some op)
    ∧ (∀ s : State, s.de.writeSlot ≠ none ∨ (∀ k op, nextStep s k = some op → op.isWrite = false) → fillSlot s = s)
    ∧ ∀ (s : State) (n : Nat) (k : SocketNo) (op : Op) (e : SocketEntry) (h : Header), s.de.writeSlot = none → n < 8 →
      k = s.de.lastGranted + 1 + Fin.ofNat 8 n → socketOf s k = some e → e.header = some h → nextStep s k = some op →
      (∀ m o, m < n → nextStep s (s.de.lastGranted + 1 + Fin.ofNat 8 m) = some o → o.isWrite = false) →
      (op = .headerWrite → fillSlot s = { s with de := { s.de with writeSlot := some ⟨k, .full
        (bytesLE 4 h.serial.toNat ++ bytesLE 1 h.capClass ++ bytesLE 1 h.e ++ bytesLE 1 h.width ++ bytesLE 1 h.access
          ++ bytesLE 2 h.wear ++ [0])⟩ } })
      ∧ (∀ rw, op = .eraseHeader rw → fillSlot s = { s with de := { s.de with writeSlot := some ⟨k, .full
        (bytesLE 4 h.serial.toNat ++ bytesLE 1 h.capClass ++ bytesLE 1 h.e ++ bytesLE 1 h.width ++ bytesLE 1 h.access
          ++ bytesLE 2 (min 65535 (h.wear + 1)) ++ [1])⟩ } })
      ∧ (∀ (p j : Nat) (pc : PlannedCart) (pl : Placement) (name : ImageName) (i : Nat) (en : DirEntry) (phys : Nat),
        op = .sectorWrite p j → planIn s k = some pc → pc.placements[p]? = some pl →
        placementImage s pc pl = some name → dirIndex s name = some i → dirAt s i = some en →
        physical s en (pl.imageStart + j) = some phys →
        ∃ v, fillSlot s = v ∧ v.de = { s.de with writeSlot := some ⟨k, .filling phys i⟩ } ∧ v.wq = s.wq ∧ v.cp = s.cp
          ∧ (j ≠ 0 → v.isc = s.isc)
          ∧ (j = 0 → v.isc.useCounter = min 4294967295 (s.isc.useCounter + 1)
            ∧ dirAt v i = some { en with useStamp := min 4294967295 (s.isc.useCounter + 1) }
            ∧ ∀ m, m ≠ i → dirAt v m = dirAt s m))
      ∧ ∀ (pc : PlannedCart) (r : WorkRecord) (names : Placement → ImageName) (body : List Byte), op = .directoryWrite → planIn s k = some pc →
        recordOf s pc.order = some r → (∀ p ∈ pc.placements, placementImage s pc p = some (names p)) →
        body = bytesLE 4 pc.order.toNat ++ bytesLE 1 pc.bundle ++ bytesLE 1 pc.position
          ++ bytesLE 1 (s.wq.plan.filter (fun x => x.2.order == pc.order && x.2.bundle == pc.bundle)).length
          ++ bytesLE 4 r.patron.toNat ++ bytesLE 1 pc.placements.length
          ++ pc.placements.flatMap (fun p => bytesLE 1 p.item ++ bytesLE 1 p.part ++ bytesLE 3 (names p).title.toNat
            ++ bytesLE 1 (names p).version.toNat ++ bytesLE 2 p.imageStart ++ bytesLE 2 p.length
            ++ bytesLE 2 p.cartStart) →
        fillSlot s = { s with de := { s.de with
          writeSlot := some ⟨k, .full (body ++ bytesLE 4 (crc32 body).toNat)⟩
          sockets := Table.change k.val (fun e => { e with dirCheck := crc32 body }) s.de.sockets } }

/-- R92, R93, R113, R116 to R119, R127: what a header read does. An invalid header, or one with the serial of the
cartridge in another socket that is Identifying, Holding or Busy, refuses the socket and leaves the pool alone; an unknown serial is entered at the lowest free
position, Ready or, with the erased flag clear, Dirty and erased at once. A full pool first evicts the oldest Faulted or
Retired record without a socket, or else the oldest Blank one, and the new record takes its position; with neither the
socket is refused. A known serial takes the header's figures and is answered by its state: the socket holds it, erases
it or refuses it with the reason. When the socket was the last that a start waited for, phase 4 ends, in the step of
this header read (log 13): Ready and Written records without a socket become Blank and Packed, FLI joins the line unless
Muted, and the walk runs. -/
def Obligations.HeaderIdentifiesTheCartridge : Prop :=
  (∀ (t : Moment) (l : Option Moment) (tr : Transfer) (area : List Byte) (k : SocketNo) (h : Header) (e : SocketEntry) (s : State),
    s.de.grant = some ⟨k, .headerRead, l, tr⟩ → socketOf s k = some e → h = readHeaderArea area →
    ∃ v, exec (.headerReadDone t area) s = .next (mlcStage (rackStage
        (if s.cfl.phase = .blocks ∧ ∀ j ∈ s.de.unidentified, j = k then completeStart v else v)))
      ∧ v.de.grant = none ∧ v.de.unidentified = s.de.unidentified.filter (fun j => j != k)
      ∧ (∀ j, j ≠ k → socketOf v j = socketOf s j)
      ∧ (∀ reason : SocketReason,
        (4 < h.e ∨ (h.width ≠ 8 ∧ h.width ≠ 16)) ∧ reason = .invalidHeader
          ∨ h.e ≤ 4 ∧ (h.width = 8 ∨ h.width = 16) ∧ (
            serialElsewhere s k h.serial = true ∧ reason = .serialInAnotherSocket
            ∨ serialElsewhere s k h.serial = false ∧ cartOf s h.serial = none
              ∧ Table.firstFree 512 s.cp.records = none ∧ reason = .poolFull
              ∧ ∀ x ∈ s.cp.records, x.2.state ≠ .blank
                ∧ (x.2.state = .faulted ∨ x.2.state = .retired → x.2.socket ≠ none)) →
        socketOf v k = some { e with state := .refused, serial := some h.serial, header := some h } ∧ v.cp = s.cp
          ∧ (s.pp.events.length < 32 → v.pp.events = s.pp.events ++ [.socketRefused k reason]))
      ∧ (h.e ≤ 4 → (h.width = 8 ∨ h.width = 16) → serialElsewhere s k h.serial = false →
        (∀ p, cartOf s h.serial = none → s.tablesSound →
          Table.firstFree 512 s.cp.records = some p
            ∨ (Table.firstFree 512 s.cp.records = none ∧ ∃ old, s.cp.records.at? p = some old ∧
              ((old.state = .faulted ∨ old.state = .retired) ∧ old.socket = none
                ∧ (∀ x ∈ s.cp.records, x.2.state = .faulted ∨ x.2.state = .retired → x.2.socket = none →
                  old.stamp < x.2.stamp ∨ (old.stamp = x.2.stamp ∧ p ≤ x.1))
              ∨ old.state = .blank
                ∧ (∀ x ∈ s.cp.records, (x.2.state = .faulted ∨ x.2.state = .retired → x.2.socket ≠ none)
                  ∧ (x.2.state = .blank → old.stamp < x.2.stamp ∨ (old.stamp = x.2.stamp ∧ p ≤ x.1))))) →
          ∃ r, cartOf v h.serial = some r ∧ v.cp.records.at? p = some r
            ∧ (∀ m, m ≠ p → v.cp.records.at? m = s.cp.records.at? m)
            ∧ r.capClass = h.capClass ∧ r.e = h.e ∧ r.wear = h.wear
            ∧ r.socket = some k ∧ r.link = none ∧ r.tag = none
            ∧ r.state = (if h.erased then .ready else .erasing)
            ∧ r.stamp = min 4294967295 (s.cp.stamp + (if h.erased then 1 else 2))
            ∧ (h.erased = true → (socketOf v k).map (·.state) = some .holding)
            ∧ (h.erased = false → (socketOf v k).map (fun x => (x.state, x.op)) = some (.busy, some (.erase false 0)))
            ∧ (socketOf v k).map (fun x => (x.serial, x.header)) = some (some h.serial, some h)
            ∧ v.pp = s.pp)
        ∧ (∀ r, cartOf s h.serial = some r → ∃ r', cartOf v h.serial = some r'
          ∧ r'.capClass = h.capClass ∧ r'.e = h.e ∧ r'.wear = h.wear ∧ r'.link = r.link ∧ r'.tag = r.tag
          ∧ (∀ c, c ≠ h.serial → cartOf v c = cartOf s c)
          ∧ (socketOf v k).map (fun x => (x.serial, x.header)) = some (some h.serial, some h)
          ∧ (∀ reason : SocketReason, r.state = .out ∧ reason = .onLoan ∨ r.state = .faulted ∧ reason = .faulted
                ∨ r.state = .retired ∧ reason = .retired
                ∨ r.state = .packed ∧ inLane s r = true ∧ reason = .inLane →
              r'.state = r.state ∧ r'.socket = r.socket
                ∧ socketOf v k = some { e with state := .refused, serial := some h.serial, header := some h }
                ∧ (s.pp.events.length < 32 → v.pp.events = s.pp.events ++ [.socketRefused k reason]))
          ∧ (r.state = .written ∨ (r.state = .packed ∧ inLane s r = false) →
              r'.state = .written ∧ r'.socket = some k ∧ (socketOf v k).map (·.state) = some .holding ∧ v.pp = s.pp)
          ∧ (((r.state = .ready ∨ r.state = .blank) ∧ h.erased = true) →
              r'.state = .ready ∧ r'.socket = some k ∧ (socketOf v k).map (·.state) = some .holding ∧ v.pp = s.pp)
          ∧ (((r.state = .ready ∨ r.state = .blank) ∧ h.erased = false)
                ∨ r.state = .returned ∨ r.state = .dirty ∨ r.state = .missing →
              r'.state = .erasing ∧ r'.socket = some k ∧ v.pp = s.pp
                ∧ (socketOf v k).map (fun x => (x.state, x.op)) = some (.busy, some (.erase false 0))))))
    ∧ (∀ (s : State) (k : SocketNo) (serial : CartSerial), Table.wf 8 s.de.sockets = true →
      (serialElsewhere s k serial = true ↔ ∃ j e, j ≠ k ∧ socketOf s j = some e ∧ e.serial = some serial
        ∧ (e.state = .identifying ∨ e.state = .holding ∨ e.state = .busy)))
    ∧ (∀ (s : State) (r : CartRecord), inLane s r = true ↔
      ∃ slot pc w b, r.link = some slot ∧ s.wq.plan.at? slot = some pc ∧ recordOf s pc.order = some w
        ∧ w.bundle? pc.bundle = some b ∧ (b.state = .packing ∨ b.state = .laned))
    ∧ ∀ s v : State, v = completeStart s → v.cfl = { s.cfl with phase := .running }
      ∧ v.de = { s.de with walkDue := true } ∧ v.wq = s.wq ∧ v.isc = s.isc ∧ v.pp = s.pp
      ∧ v.fli = (if s.fli.txState = .muted then s.fli else { s.fli with joinFrom := some s.clock })
      ∧ ((s.cp.records.map (·.2.serial)).Nodup → ∀ c r, cartOf s c = some r →
        ∃ r', cartOf v c = some r' ∧ { r' with state := r.state, stamp := r.stamp } = r
          ∧ r'.state = (if r.socket = none ∧ r.state = .ready then .blank
              else if r.socket = none ∧ r.state = .written then .packed else r.state)
          ∧ (r'.state = r.state → r' = r))

/-- R94, R95, R97, R106 to R109, R111: a fail status or a deadline that runs out fails the operation of a Busy socket;
so do the read limit of a transfer, a fail status during one (log 27) and a sector or directory that does not check. A
pass during a transfer is its first ready (log 89): it ends the read limit, which then runs out no more. The
sector of a placement is checked when its check value can be read through the store port (logs 20 and 42): R88, after
the slices of the write slot's sector that were requested before it (whether they are over is a free value when that
sector has the port); else it stays in the read slot, and is checked when that becomes so. A cartridge whose limit has
run out is not ready until it signals; its late status is of no more use (log 55). An unreadable header refuses the
socket (R92), and one that is the last that a start waited for ends phase 4 in its step (R113, log 13). A cartridge that
works on a stopped operation only becomes ready (R107). Nothing happens before a deadline. -/
def Obligations.FailuresRewriteOnceThenFault : Prop :=
  (∀ (t d : Moment) (k : SocketNo) (e : SocketEntry) (op : Op) (c : CartSerial) (s : State),
    socketOf s k = some e → e.op = some op → e.serial = some c → e.deadline = some d → e.stale = false →
    (∃ v, exec (.cartridgeReady t k false) s = .next (mlcStage (rackStage v))
      ∧ failureLeaves k { e with deadline := none, silent := false } op c s v)
    ∧ (d ≤ max s.clock t → ∃ v, exec (.cartridgeDeadline t k) s = .next (rackStage v)
      ∧ failureLeaves k { e with deadline := none, silent := true } op c s v)
    ∧ (max s.clock t < d → exec (.cartridgeDeadline t k) s = .next (s.at t)))
    ∧ (∀ (t d : Moment) (k : SocketNo) (e : SocketEntry) (pass : Bool) (s w : State),
      socketOf s k = some e → e.deadline = some d → e.stale = true →
      w = { s.at t with de := { s.de with sockets := Table.change k.val (fun e => { e with
        deadline := none, stale := false, silent := false }) s.de.sockets } } →
      exec (.cartridgeReady t k pass) s = .next (mlcStage (rackStage w))
        ∧ (d ≤ max s.clock t → exec (.cartridgeDeadline t k) s = .next (rackStage w)))
    ∧ (∀ (t : Moment) (k : SocketNo) (e : SocketEntry) (pass : Bool) (s : State),
      socketOf s k = some e → e.deadline = none → e.silent = true →
      exec (.cartridgeReady t k pass) s = .next (mlcStage (rackStage { s.at t with de := { s.de with
        sockets := Table.change k.val (fun e => { e with deadline := none, stale := false, silent := false })
          s.de.sockets } })))
    ∧ (∀ (t : Moment) (l : Option Moment) (tr : Transfer) (k : SocketNo) (b : BusOp) (e : SocketEntry) (op : Op) (c : CartSerial)
      (s : State), s.de.grant = some ⟨k, b, l, tr⟩ → b ≠ .headerRead → socketOf s k = some e → e.op = some op →
      e.serial = some c →
      (∀ d, l = some d → d ≤ max s.clock t →
        ∃ v, exec (.readLimitExpiry t) s = .next (mlcStage (rackStage v)) ∧ v.de.grant = none
        ∧ failureLeaves k { e with silent := true } op c s v)
      ∧ (e.deadline = none → e.silent = false →
        ∃ v, exec (.cartridgeReady t k false) s = .next (mlcStage (rackStage v))
          ∧ v.de.grant = none ∧ failureLeaves k e op c s v))
    ∧ (∀ (t : Moment) (l : Option Moment) (tr : Transfer) (k : SocketNo) (e : SocketEntry) (s : State),
      s.de.grant = some ⟨k, .headerRead, l, tr⟩ → socketOf s k = some e →
      (∀ d, l = some d → d ≤ max s.clock t → ∃ v, exec (.readLimitExpiry t) s = .next (mlcStage (rackStage
          (if s.cfl.phase = .blocks ∧ ∀ j ∈ s.de.unidentified, j = k then completeStart v else v)))
        ∧ v.de.grant = none ∧ v.de.unidentified = s.de.unidentified.filter (fun j => j != k)
        ∧ socketOf v k = some { e with state := .refused, silent := true } ∧ v.cp = s.cp
        ∧ (s.pp.events.length < 32 → v.pp.events = s.pp.events ++ [.socketRefused k .invalidHeader]))
      ∧ (e.deadline = none → e.silent = false → ∃ v, exec (.cartridgeReady t k false) s = .next (mlcStage (rackStage
          (if s.cfl.phase = .blocks ∧ ∀ j ∈ s.de.unidentified, j = k then completeStart v else v)))
        ∧ v.de.grant = none ∧ v.de.unidentified = s.de.unidentified.filter (fun j => j != k)
        ∧ socketOf v k = some { e with state := .refused } ∧ v.cp = s.cp
        ∧ (s.pp.events.length < 32 → v.pp.events = s.pp.events ++ [.socketRefused k .invalidHeader])))
    ∧ (∀ (t : Moment) (l : Option Moment) (tr : Transfer) (sector : List Byte) (fade : StoreFade) (k : SocketNo) (e : SocketEntry)
      (c : CartSerial) (pc : PlannedCart) (s : State),
      s.de.grant = some ⟨k, .sectorRead, l, tr⟩ → socketOf s k = some e → e.serial = some c → planIn s k = some pc →
      (∀ p j i phys, e.op = some (.verifySector p j) → sourceSector s pc p j = some (i, phys) →
        portWants s .duplicator = false → portForCheck s = true → crc32 sector ≠ checkOf (applyFade fade s) phys →
        ∃ v, exec (.sectorReadDone t sector fade) s = .next (grantPort (renewBundles (deStage (settleStore v))))
          ∧ v.de.grant = none ∧ failureLeaves k e (.verifySector p j) c s v)
      ∧ (e.op = some .verifyDirectory → crc32 (sector.take (directoryBody s pc).length) ≠ e.dirCheck →
        ∃ v, exec (.sectorReadDone t sector fade) s = .next (grantPort (renewBundles (deStage (settleStore v))))
          ∧ v.de.grant = none ∧ failureLeaves k e .verifyDirectory c s v)
      ∧ ∀ p j, e.op = some (.verifySector p j) → exec (.sectorReadDone t sector fade) s
        = .next (rackStage { applyFade fade (s.at t) with de := { s.de with
            grant := none, readSlot := some ⟨k, sector, portWants s .duplicator⟩ } }))
    ∧ (∀ (k : SocketNo) (bytes : List Byte) (behind : Bool) (e : SocketEntry) (p j : Nat) (s : State),
      s.de.readSlot = some ⟨k, bytes, behind⟩ → socketOf s k = some e → e.op = some (.verifySector p j) →
      (behind = true → s.isc.port ≠ some .duplicator → checkStage s = s)
      ∧ (behind = false → portForCheck s = false → checkStage s = s)
      ∧ (behind = false → portForCheck s = true → checkStage s = settleStore (checkRead s))
      ∧ (∀ w, behind = true → s.isc.port = some .duplicator → w = { s with
          raceCount := s.raceCount + 1
          de := { s.de with readSlot := some ⟨k, bytes, !(Config.sliceOver s.raceCount)⟩ } } →
        checkStage s = if Config.sliceOver s.raceCount = true ∧ portForCheck s = true then settleStore (checkRead w)
          else w)
      ∧ ∀ c pc i phys, e.serial = some c → planIn s k = some pc → sourceSector s pc p j = some (i, phys) →
        crc32 bytes ≠ checkOf s phys → failureLeaves k e (.verifySector p j) c s (checkRead s))
    ∧ (∀ (k : SocketNo) (bytes : List Byte) (e : SocketEntry) (s : State), s.de.readSlot = some ⟨k, bytes, false⟩ →
      socketOf s k = some e → e.op = some .verifyDirectory → checkStage s = settleStore (checkRead s))
    ∧ (∀ s : State, s.de.readSlot = none → checkStage s = s)
    ∧ (∀ s : State, rackStage s = grantPort (renewBundles (deStage (checkStage s))))
    ∧ (∀ s : State, portForCheck s = true ↔ (∀ x, (fetchOf s x).buffer = none)
      ∧ ∀ x v, s.isc.port = some (.serve x) → serveOf s x = some v → v.ready ≠ none)
    ∧ (∀ (t : Moment) (s : State), (∀ g d, s.de.grant = some g → g.limit = some d → max s.clock t < d) →
      exec (.readLimitExpiry t) s = .next (s.at t))
    ∧ (∀ (t : Moment) (k : SocketNo) (s : State),
      (∀ e, socketOf s k = some e → ∀ d, e.deadline = some d → max s.clock t < d) →
      exec (.cartridgeDeadline t k) s = .next (s.at t))
    ∧ ∀ (t : Moment) (k : SocketNo) (s : State),
      (∀ e, socketOf s k = some e → e.deadline = none ∧ e.silent = false) →
      (∀ g, s.de.grant = some g → g.socket = k →
        exec (.cartridgeReady t k true) s
          = .next { s.at t with de := { s.de with grant := some { g with limit := none } } })
      ∧ ((∀ g, s.de.grant = some g → g.socket ≠ k) → ∀ pass, exec (.cartridgeReady t k pass) s = .next (s.at t))

/-- R56, R91, R97, R103 to R106, R108, R110, R111: what a pass does. Header write, then the placements' sectors in
order, then the directory, then the verify of the same sectors and of sector 0, at whose end the record is Written and
the socket Holding; the erase commands group by group, then the header write that sets the erased flag and raises the
wear count, after which the record is Ready, or Retired above the wear limit, or (in a rewrite) the header write
begins again. (A sector is checked when its check value can be read, against the value that stands then; logs 20 and
42. At once only while the write slot waits for no sector, R88. The socket's copy of the header takes the erased flag at
the pass, log 90.) -/
def Obligations.PassesMoveTheOperationOn : Prop :=
  (∀ (t d : Moment) (k : SocketNo) (e : SocketEntry) (c : CartSerial) (h : Header) (s : State),
    socketOf s k = some e → e.deadline = some d → e.stale = false → e.serial = some c → e.header = some h →
    ∃ v, exec (.cartridgeReady t k true) s = .next (mlcStage (rackStage v))
      ∧ (∀ j, j ≠ k → socketOf v j = socketOf s j) ∧ v.de.grant = s.de.grant ∧ v.de.writeSlot = s.de.writeSlot
      ∧ (e.op = some .headerWrite → v.cp = s.cp ∧ socketOf v k = some { e with
          deadline := none, silent := false, op := some (.sectorWrite 0 0), header := some { h with erased := false } })
      ∧ (∀ p j pc, e.op = some (.sectorWrite p j) → planIn s k = some pc → v.cp = s.cp
          ∧ socketOf v k = some { e with
              deadline := none, silent := false
              op := some (if j + 1 < (pc.placements[p]?).elim 0 (·.length) then .sectorWrite p (j + 1)
                else if p + 1 < pc.placements.length then .sectorWrite (p + 1) 0 else .directoryWrite) })
      ∧ (e.op = some .directoryWrite → socketOf v k = some { e with
          deadline := none, silent := false, op := some (.verifySector 0 0) }
          ∧ ∀ r, cartOf s c = some r → ∃ r', cartOf v c = some r' ∧ r'.state = .verifying ∧ r'.link = r.link)
      ∧ (∀ rw g, e.op = some (.erase rw g) → v.cp = s.cp ∧ socketOf v k = some { e with
          deadline := none, silent := false
          op := some (if g + 1 < capacityOf h.capClass / groupOf h.e then .erase rw (g + 1) else .eraseHeader rw) })
      ∧ (e.op = some (.eraseHeader true) →
          socketOf v k = some { e with
            deadline := none, silent := false, op := some .headerWrite
            header := some { h with erased := true, wear := min 65535 (h.wear + 1) } }
          ∧ ∀ r, cartOf s c = some r → cartOf v c = some { r with wear := min 65535 (h.wear + 1) })
      ∧ (e.op = some (.eraseHeader false) →
          socketOf v k = some { e with
            state := .holding, op := none, attempt := 1, deadline := none, silent := false
            header := some { h with erased := true, wear := min 65535 (h.wear + 1) } }
          ∧ (∀ r, cartOf s c = some r → ∃ r', cartOf v c = some r' ∧ r'.wear = min 65535 (h.wear + 1)
              ∧ r'.state = (if s.cfl.settings.wearLimit < min 65535 (h.wear + 1) then .retired else .ready))
          ∧ (s.pp.events.length < 32 → v.pp.events = s.pp.events
              ++ (if s.cfl.settings.wearLimit < min 65535 (h.wear + 1) then [.cartridgeRetired k] else []))))
    ∧ (∀ (t : Moment) (l : Option Moment) (tr : Transfer) (sector : List Byte) (fade : StoreFade) (k : SocketNo) (e : SocketEntry)
      (c : CartSerial) (pc : PlannedCart) (s : State),
      s.de.grant = some ⟨k, .sectorRead, l, tr⟩ → socketOf s k = some e → e.serial = some c → planIn s k = some pc →
      (∀ p j i phys, e.op = some (.verifySector p j) → sourceSector s pc p j = some (i, phys) →
        portWants s .duplicator = false → portForCheck s = true →
        crc32 sector = checkOf (applyFade fade s) phys →
        ∃ v, exec (.sectorReadDone t sector fade) s = .next (grantPort (renewBundles (deStage (settleStore v))))
          ∧ v.de.grant = none ∧ v.cp = s.cp
          ∧ socketOf v k = some { e with
              op := some (if j + 1 < (pc.placements[p]?).elim 0 (·.length) then .verifySector p (j + 1)
                else if p + 1 < pc.placements.length then .verifySector (p + 1) 0 else .verifyDirectory) })
      ∧ (e.op = some .verifyDirectory → crc32 (sector.take (directoryBody s pc).length) = e.dirCheck →
        ∃ v, exec (.sectorReadDone t sector fade) s = .next (grantPort (renewBundles (deStage (settleStore v))))
          ∧ v.de.grant = none ∧ socketOf v k = some e.rest
          ∧ (∀ p x, v.wq.plan.at? p = some x → x.link = some c → x.written = true)
          ∧ ∀ r, cartOf s c = some r → ∃ r', cartOf v c = some r' ∧ r'.state = .written ∧ r'.link = r.link))
    ∧ (∀ (k : SocketNo) (bytes : List Byte) (behind : Bool) (e : SocketEntry) (p j i phys : Nat) (pc : PlannedCart)
      (s : State), s.de.readSlot = some ⟨k, bytes, behind⟩ → socketOf s k = some e → e.op = some (.verifySector p j) →
      planIn s k = some pc → sourceSector s pc p j = some (i, phys) → crc32 bytes = checkOf s phys →
      (checkRead s).de.readSlot = none ∧ (checkRead s).cp = s.cp
        ∧ socketOf (checkRead s) k = some { e with
          op := some (if j + 1 < (pc.placements[p]?).elim 0 (·.length) then .verifySector p (j + 1)
            else if p + 1 < pc.placements.length then .verifySector (p + 1) 0 else .verifyDirectory) })
    ∧ ∀ (t : Moment) (sector : List Byte) (area : List Byte) (fade : StoreFade) (s : State),
      ((∀ k l tr, s.de.grant ≠ some ⟨k, .sectorRead, l, tr⟩) → exec (.sectorReadDone t sector fade) s = .next (s.at t))
        ∧ ((∀ k l tr, s.de.grant ≠ some ⟨k, .headerRead, l, tr⟩) → exec (.headerReadDone t area) s = .next (s.at t))

/-- R112: a cartridge pulled out leaves its socket Empty, without slots or grant, and its record with no socket in the
state that the table gives; one that was Assigned, Writing or Verifying loses its link and its planned cartridge is
unassigned. From an Identifying or Refused socket no record changes. A socket that is emptied before it is identified
counts as identified (the model's choice, log 61): the last that a reset waited for ends phase 4 (R113), in that step
(log 13), with what HeaderIdentifiesTheCartridge says of that end: records without a socket Blank and Packed, FLI joining
unless Muted, the walk, and the station runs. An Assigned cartridge in a Busy socket is as one in a Holding socket (log 56). -/
def Obligations.RemovedCartridgeLeavesItsRecord : Prop :=
  (∀ (t : Moment) (k : SocketNo) (e : SocketEntry) (s : State), socketOf s k = some e →
    ∃ v, exec (.cartridgeRemove t k) s = .next (mlcStage (rackStage
        (if s.cfl.phase = .blocks ∧ ∀ j ∈ s.de.unidentified, j = k then completeStart v else v)))
      ∧ v.cfl = s.cfl ∧ v.de.unidentified = s.de.unidentified.filter (fun j => j != k)
      ∧ v.de.sockets = Table.drop k.val s.de.sockets
      ∧ (∀ w, v.de.writeSlot = some w → w.socket ≠ k) ∧ (∀ w, v.de.readSlot = some w → w.socket ≠ k)
      ∧ (∀ g, v.de.grant = some g → g.socket ≠ k ∧ s.de.grant = some g)
      ∧ (e.state = .identifying ∨ e.state = .refused → v.cp = s.cp ∧ v.wq = s.wq)
      ∧ ∀ c r, e.state = .holding ∨ e.state = .busy → e.serial = some c → cartOf s c = some r →
        ∃ r', cartOf v c = some r' ∧ r'.socket = none
          ∧ r'.state = (match r.state with
              | .ready => .blank | .written => .packed
              | .assigned | .writing | .verifying | .erasing => .missing | st => st)
          ∧ (r.state = .assigned ∨ r.state = .writing ∨ r.state = .verifying →
              r'.link = none ∧ ∀ p pc, v.wq.plan.at? p = some pc → pc.link = some c → pc.written = true)
          ∧ (r.state = .written → r'.link = r.link ∧ v.wq = s.wq))
    ∧ (∀ (t : Moment) (k : SocketNo) (e : SocketEntry) (s : State), socketOf s k = some e →
      s.cfl.phase = .blocks → (∀ j ∈ s.de.unidentified, j = k) →
      ∃ u, exec (.cartridgeRemove t k) s = .next u ∧ u.cfl.phase = .running)
    ∧ ∀ (t : Moment) (k : SocketNo) (s : State), socketOf s k = none →
      exec (.cartridgeRemove t k) s = .next (s.at t)

/-- R100: a planned cartridge fits when its extent, G plus its placements' lengths padded to G, is no larger than the
cartridge's capacity. Among the Ready cartridges in Holding sockets that it fits, the one of smallest capacity class
is chosen, among equals the one in the lowest socket; with none it stays unassigned and R102 applies. -/
def Obligations.AssignmentChoosesTheSmallestFit : Prop :=
  (∀ (pc : PlannedCart) (cls e : Nat), fits pc cls e = true ↔
    2 ^ e + (pc.placements.map (fun p => (p.length + 2 ^ e - 1) / 2 ^ e * 2 ^ e)).sum ≤ capacityOf cls)
    ∧ (∀ (s : State) (pc : PlannedCart) (k : SocketNo) (r : CartRecord), chooseCart s pc = some (k, r) →
      (∃ e, socketOf s k = some e ∧ e.state = .holding) ∧ cartIn s k = some r ∧ r.state = .ready
        ∧ fits pc r.capClass r.e = true
        ∧ ∀ k' e' r', socketOf s k' = some e' → e'.state = .holding → cartIn s k' = some r' → r'.state = .ready →
          fits pc r'.capClass r'.e = true → r.capClass < r'.capClass ∨ (r.capClass = r'.capClass ∧ k ≤ k'))
    ∧ (∀ (s : State) (pc : PlannedCart), chooseCart s pc = none ↔
      ∀ k e r, socketOf s k = some e → e.state = .holding → cartIn s k = some r → r.state = .ready →
        fits pc r.capClass r.e = false)
    ∧ ∀ (s : State) (slot : Nat) (pc : PlannedCart), s.wq.plan.at? slot = some pc → pc.link = none → pc.written = false →
      imagesPresent s pc = true →
      (chooseCart s pc = none → offerCart s slot = askLoad slot pc s)
        ∧ ∀ k r, chooseCart s pc = some (k, r) → offerCart s slot = linkCart slot k r s

/-! ## Shelf, holds and loans -/

/-- R129, R191: ShelfAdd, as its block acts on the command taken (R190), is refused, changing nothing but the command
slot and its outcome, when the volumes are outside 1..12 or the copies outside 1..255, when an entry has other volumes
or would own more than 255, and when there is neither entry nor position. Otherwise the entry's copies rise by the
command's, or a new entry stands at the lowest free position, and the title is owed a serve pass. -/
def Obligations.ShelfAddCounts : Prop :=
  ∀ (t : Moment) (high : BitVec 4) (title : Title) (n : Nat) (w : TakenCommand) (c s : State),
    s.pp.slot = .executing w → w.byte = high ++ 4#4 → title = argTitle w → n = w.arg3.toNat → c = s.at t →
    (high.toNat < 1 ∨ 12 < high.toNat ∨ n < 1
        ∨ (∃ e, shelfOf s title = some e ∧ (e.perCopy ≠ high.toNat ∨ 255 < e.owned + n))
        ∨ (shelfOf s title = none ∧ Table.firstFree 1024 s.shu.shelf = none) →
      exec (.shelfAdd t .act) s = .next (endCommand .refused c))
    ∧ (1 ≤ high.toNat → high.toNat ≤ 12 → 1 ≤ n →
      (∀ e, shelfOf s title = some e → e.perCopy = high.toNat → e.owned + n ≤ 255 →
        exec (.shelfAdd t .act) s = .next (endCommand .accepted (shelfStage { c with shu := { s.shu with
          shelf := s.shu.shelf.map (fun p => if p.2.title = title then
            (p.1, { p.2 with owned := p.2.owned + n, onShelf := p.2.onShelf + n }) else p)
          due := s.shu.due ++ [title] } })))
      ∧ (∀ k, shelfOf s title = none → Table.firstFree 1024 s.shu.shelf = some k →
        exec (.shelfAdd t .act) s = .next (endCommand .accepted (shelfStage { c with shu := { s.shu with
          shelf := Table.put k { title := title, perCopy := high.toNat, owned := n, onShelf := n, reserved := 0,
                                 mark := false } s.shu.shelf
          due := s.shu.due ++ [title] } }))))

/-- R130: ShelfWithdraw, as its block acts on the command taken (R190), is refused when the title has no entry or no
free copy; otherwise copies on shelf and copies owned each fall by 1, copies reserved stays, and an entry that owns
nothing is freed. Nothing else changes but the command slot and its outcome. -/
def Obligations.ShelfWithdrawTakesAFreeCopy : Prop :=
  ∀ (t : Moment) (high : BitVec 4) (title : Title) (w : TakenCommand) (c s : State), s.pp.slot = .executing w →
    w.byte = high ++ 5#4 → title = argTitle w → c = s.at t →
    ((∀ e, shelfOf s title = some e → e.onShelf - e.reserved = 0) →
      exec (.shelfWithdraw t .act) s = .next (endCommand .refused c))
    ∧ ∀ e, shelfOf s title = some e → e.reserved < e.onShelf →
      exec (.shelfWithdraw t .act) s = .next (endCommand .accepted { c with shu := { s.shu with
        shelf := (s.shu.shelf.map (fun p => if p.2.title = title then
          (p.1, { p.2 with owned := p.2.owned - 1, onShelf := p.2.onShelf - 1 }) else p)).filter
            (fun p => p.2.owned != 0) } })

/-- R138 to R142, R64, R200: AVAILABLE offers the Waiting holds of its title without a set-aside copy, in hold order and
up to its count, each with a HANDOVER and a deadline a take wait away. A HANDOVER reads back as the hold it was made of,
one that test 1 of R139 names is ignored, and another is refused when the order is in auction here, the item in the work
record or on hold, the station paused or Muted, no copy free or no room, and else taken as an item take with a copy
reserved, answered by a TAKE of the item. A REFUSE of the station to which the hold is Offered returns it to Waiting. An
item TAKE or CLOSED of another station removes the hold, frees its set-aside copy and cancels the Held item (at both a
HANDOVER that SHU holds stays, log 74). -/
def Obligations.HandoversServeOtherStations : Prop :=
  (∀ (f : Received) (title : Title) (hs : List Hold) (s v : State), s.tablesSound →
    title = BitVec.ofNat 24 f.subject.toNat →
    hs = (s.shu.holds.filter (fun h => h.title == title && h.offered.isNone && !h.setAside)).take f.detail.toNat →
    v = hearAvailable f s →
    v.shu.holds = s.shu.holds.map (fun h => if h ∈ hs
        then { h with offered := some (f.source, s.clock + 32000 * s.cfl.settings.takeWait) } else h)
      ∧ v.shu.shelf = s.shu.shelf ∧ v.shu.due = s.shu.due ∧ v.wq = s.wq ∧ v.au = s.au ∧ v.pp = s.pp
      ∧ (s.fli.txState ≠ .muted → s.fli.queue.length + hs.length ≤ 16 →
        v.fli = { s.fli with queue := s.fli.queue ++ hs.map (handoverFrame f.source) } ∧ v.shu.held = s.shu.held))
    ∧ (∀ (h : Hold) (source peer : Station) (dest kind : Nat), h.item ≤ 7 → h.zone ≤ 999 → 1 ≤ h.volumes →
      h.volumes ≤ 12 →
      readHandover { source := source, dest := dest, kind := kind, subject := (handoverFrame peer h).subject
                     detail := (handoverFrame peer h).detail, payload := (handoverFrame peer h).payload }
        = some { h with placed := none, seq := 0, offered := none, setAside := false })
    ∧ (∀ (f : Received) (b : Nat → Nat), (∀ i, b i = (f.payload.getD i 0).toNat) →
      (readHandover f = none ↔ f.payload.length ≠ 14 ∨ 7 < f.detail.toNat ∨ b 7 ≠ 1
        ∨ b 12 + 256 * b 13 < 1 ∨ 12 < b 12 + 256 * b 13 ∨ 999 < b 4 + 256 * b 5 ∨ 1 < b 6))
    ∧ (∀ (f : Received) (s : State), readHandover f = none → hearHandover f s = s)
    ∧ (∀ (f : Received) (h : Hold) (s : State), readHandover f = some h →
      (auctionOf s h.order ≠ none ∨ (∃ r, recordOf s h.order = some r ∧ r.item? h.item ≠ none)
          ∨ holdOf s h.order h.item ≠ none ∨ s.pp.pause = true ∨ s.fli.txState = .muted
          ∨ freeCopies s h.title = 0 ∨ hasRoom s h.order h.item = false →
        hearHandover f s = offerFrame .shu (refuseFrame f.source h.order h.item) s)
      ∧ (auctionOf s h.order = none → (∀ r, recordOf s h.order = some r → r.item? h.item = none) →
        holdOf s h.order h.item = none → s.pp.pause = false → s.fli.txState ≠ .muted → 0 < freeCopies s h.title →
        hasRoom s h.order h.item = true →
        hearHandover f s = offerFrame .shu (takeFrame h.order h.item 0 (keyOf (own s) h.order))
          (itemTake h { s with shu := { s.shu with shelf := s.shu.shelf.map (fun p =>
            if p.2.title = h.title then (p.1, { p.2 with reserved := p.2.reserved + 1 }) else p) } })))
    ∧ (∀ (f : Received) (s : State),
      ((∀ h m, holdOf s f.subject f.detail.toNat = some h → h.offered ≠ some (f.source, m)) → hearRefuse f s = s)
      ∧ ∀ h m, holdOf s f.subject f.detail.toNat = some h → h.offered = some (f.source, m) →
        ((∀ p, h.placed = some p → s.lu.dayKnown = true → s.lu.day - p ≤ s.cfl.settings.holdLife) →
          hearRefuse f s = servePass { s with shu := { s.shu with
        holds := s.shu.holds.map (fun g => if g.order = f.subject ∧ g.item = f.detail.toNat then { g with offered := none } else g) } } h.title)
        ∧ (∀ p, h.placed = some p → s.lu.dayKnown = true → s.cfl.settings.holdLife < s.lu.day - p →
          hearRefuse f s = lapseHold { h with offered := none } { s with shu := { s.shu with
        holds := s.shu.holds.map (fun g => if g.order = f.subject ∧ g.item = f.detail.toNat then { g with offered := none } else g) } }))
    ∧ ∀ (f : Received) (i : Nat) (s v : State), detailByte f 0 = i → i ≤ 7 →
      (f.payload.length = 3 ∧ v = hearTake f s) ∨ ((∃ o, readClosed f = some o) ∧ v = hearClosed f s) →
      (holdOf s f.subject i = none → v = s)
      ∧ ∀ h, holdOf s f.subject i = some h →
        v.shu.holds = s.shu.holds.filter (fun g => !(g.order == f.subject && g.item == i))
          ∧ v.wq = { s.wq with records := s.wq.records.map (fun r => if r.order = f.subject then { r with
              items := r.items.map (fun x => if x.index = i then
                (if x.state = .held then { x with state := .cancelled } else x) else x) } else r) }
          ∧ (h.setAside = true → v.shu.due = s.shu.due ++ [h.title] ∧ v.shu.shelf = s.shu.shelf.map (fun p =>
              if p.2.title = h.title then (p.1, { p.2 with reserved := p.2.reserved - 1 }) else p))
          ∧ (h.setAside = false → v.shu.due = s.shu.due ∧ v.shu.shelf = s.shu.shelf)
          ∧ v.shu.seq = s.shu.seq ∧ v.shu.held = s.shu.held ∧ v.fli = s.fli ∧ v.au = s.au ∧ v.isc = s.isc ∧ v.de = s.de
          ∧ v.cp = s.cp ∧ v.lu = s.lu ∧ v.mlc = s.mlc ∧ v.rti = s.rti ∧ v.pp = s.pp

/-- R140, R142: at its deadline an Offered hold is Waiting again, and a HANDOVER for it that SHU still holds is
discarded. When it has then stood longer than the hold life it lapses: it leaves the list with its event and a
CLOSED(Lapsed), and a Held item of its order is Cancelled; else a serve pass runs for its title. -/
def Obligations.OfferedHoldReturnsAtItsDeadline : Prop :=
  (∀ (t d : Moment) (order : OrderSerial) (item : Nat) (target : Station) (h : Hold) (s : State),
    holdOf s order item = some h → h.offered = some (target, d) → d ≤ max s.clock t →
    ((∀ p, h.placed = some p → s.lu.dayKnown = true → s.lu.day - p ≤ s.cfl.settings.holdLife) →
      exec (.holdDeadline t order item) s = .next (shelfStage (servePass { s.at t with shu := { s.shu with
        holds := s.shu.holds.map (fun g => if g.order = order ∧ g.item = item then { g with offered := none } else g)
        held := s.shu.held.filter (fun f => !(f.kind == .handover && f.subject == order
                  && f.detail == BitVec.ofNat 32 item)) } } h.title)))
    ∧ (∀ p, h.placed = some p → s.lu.dayKnown = true → s.cfl.settings.holdLife < s.lu.day - p →
      ∃ v, exec (.holdDeadline t order item) s = .next (shelfStage v) ∧ holdOf v order item = none
        ∧ (∀ o i, (o, i) ≠ (order, item) → holdOf v o i = holdOf s o i)
        ∧ (s.pp.events.length < 32 → v.pp.events = s.pp.events ++ [.holdLapsed order item])
        ∧ (s.fli.txState ≠ .muted → s.fli.queue.length ≤ 15 →
            v.fli.queue = s.fli.queue ++ [closedFrame order item .lapsed []])
        ∧ recordOf v order = (recordOf s order).map (fun r => { r with
            items := r.items.map (fun x => if x.index = item ∧ x.state = .held then { x with state := .cancelled } else x) })))
    ∧ ∀ (t : Moment) (order : OrderSerial) (item : Nat) (s : State),
      (∀ h, holdOf s order item = some h → ∀ o d, h.offered = some (o, d) → max s.clock t < d) →
      exec (.holdDeadline t order item) s = .next (s.at t)

/-- R147, R148: the serial of a new loan is the first from the next loan serial on, wrapping, that no record holds,
and the counter goes to the one after it. With the day known and a position free the loan stands there Carded, under
the own station and that serial, from today to today plus the loan days; else nothing is allocated. -/
def Obligations.LoanSerialsGoRound : Prop :=
  (∀ s : State, s.lu.loans.length ≤ 2048 → serialHeld s (nextLoanSerial s) = false
    ∧ ∃ k, k ≤ s.lu.loans.length ∧ nextLoanSerial s = s.lu.nextSerial + BitVec.ofNat 20 k
      ∧ ∀ j, j < k → serialHeld s (s.lu.nextSerial + BitVec.ofNat 20 j) = true)
    ∧ (∀ (r : WorkRecord) (body : LoanTag → LoanBody) (k : Nat) (s : State), s.lu.dayKnown = true →
      Table.firstFree 2048 s.lu.loans = some k →
      ∃ u l, allocateLoan r body s = (u, .loan l) ∧ u.lu.loans.at? k = some l
        ∧ l.tag = { station := s.cfl.station, serial := nextLoanSerial s } ∧ l.body = body l.tag
        ∧ l.order = r.order ∧ l.patron = r.patron ∧ l.zone = r.zone ∧ l.state = .carded ∧ l.carded = s.lu.day
        ∧ l.due = min 65535 (s.lu.day + (match l.body with
            | .cartridge _ => s.cfl.settings.loanDaysCart
            | .braille _ _ _ _ _ _ _ _ => s.cfl.settings.loanDaysBrl))
        ∧ u.lu.nextSerial = nextLoanSerial s + 1 ∧ u.lu.day = s.lu.day
        ∧ ∀ j m, j ≠ k → u.lu.loans.at? j = some m → ∀ c ∈ l.body.serials, c ∉ m.body.serials)
    ∧ ∀ (r : WorkRecord) (body : LoanTag → LoanBody) (s : State),
      (s.lu.dayKnown = false → allocateLoan r body s = (s, .blocked .dayUnknown))
        ∧ (s.lu.dayKnown = true → Table.firstFree 2048 s.lu.loans = none →
          allocateLoan r body s = (s, .blocked .loansFull))

/-- R122, R123, R132, R142, R150, R153 to R156, R182: a DAY above 65535 is ignored and an earlier one raises
DayRegression; the same day only makes the day known and fills the unset placed days; a later one also runs the
overdue scan. The scan makes Overdue each Out loan past its due day; a cartridge loan that has been due for the
write-off days is written off, and with such a braille part its whole copy set, unless a part of it is Carded or
InTransfer. A loan written off is removed and counted, its Out cartridges leave the pool, a copy set takes a copy off
the shelf entry's count, each order gets CLOSED(WrittenOff) frames of 16 tags each but the last, and then every Waiting
hold older than the hold life lapses: in hold order (log 73) each is removed, its set-aside copy released for a serve
pass, HoldLapsed raised and CLOSED(Lapsed) offered, and the Held item becomes Cancelled (R64). A well-formed RETURN of an own tag removes an Out or Overdue loan, or makes it
InTransfer, and its serials leave the pool. -/
def Obligations.DayAndReturnKeepTheLoans : Prop :=
  (∀ (f : Received) (d : Nat) (s : State), d = f.subject.toNat →
    (65535 < d → hearDay f s = s)
    ∧ (d ≤ 65535 → d < s.lu.day → hearDay f s = raise (.dayRegression d) s)
    ∧ (d ≤ 65535 → s.lu.day ≤ d → ∃ holds : List Hold,
        holds.Perm (s.shu.holds.map (fun h => if h.placed = none then { h with placed := some d } else h))
        ∧ holds.Pairwise (fun h k => holdKey h ≤ holdKey k)
        ∧ ∀ g, g = { s with lu := { s.lu with day := d, dayKnown := true }, shu := { s.shu with holds := holds } } →
          (d = s.lu.day → hearDay f s = g) ∧ (s.lu.day < d → hearDay f s = overdueScan g)))
    ∧ (∀ g : State, g.tablesSound → g.bounded → ∃ (ws : List (OrderSerial × LoanTag)) (v : State),
      overdueScan g = lapseScan ((ordersOf ws).foldl (closeWrittenOff ws) v)
      ∧ (ordersOf ws).Nodup ∧ (∀ o, o ∈ ordersOf ws ↔ ∃ tag, (o, tag) ∈ ws) ∧ (ws.map (·.2)).Nodup
      ∧ (∀ o tag, (o, tag) ∈ ws ↔ ∃ p l, g.lu.loans.at? p = some l ∧ v.lu.loans.at? p = none ∧ l.order = o ∧ l.tag = tag)
      ∧ (∀ p l, g.lu.loans.at? p = some l → ∀ (off : Prop),
          (off ↔ (l.body.copySet? = none ∧ (l.state = .overdue ∨ (l.state = .out ∧ l.due < g.lu.day)) ∧ l.due + g.cfl.settings.writeOffDays ≤ g.lu.day)
            ∨ ∃ set, l.body.copySet? = some set
              ∧ (∃ e ∈ g.lu.loans, e.2.body.copySet? = some set ∧ (e.2.state = .overdue ∨ (e.2.state = .out ∧ e.2.due < g.lu.day))
                ∧ e.2.due + g.cfl.settings.writeOffDays ≤ g.lu.day)
              ∧ ∀ e ∈ g.lu.loans, e.2.body.copySet? = some set → e.2.state ≠ .carded ∧ e.2.state ≠ .inTransfer) →
          (off → v.lu.loans.at? p = none)
          ∧ (¬ off → (l.state = .overdue ∨ (l.state = .out ∧ l.due < g.lu.day)) → v.lu.loans.at? p = some { l with state := .overdue })
          ∧ (¬ off → ¬ (l.state = .overdue ∨ (l.state = .out ∧ l.due < g.lu.day)) → v.lu.loans.at? p = some l))
      ∧ (∀ p, g.lu.loans.at? p = none → v.lu.loans.at? p = none)
      ∧ v.lu.writeOffs = min 65535 (g.lu.writeOffs + ws.length) ∧ v.lu.day = g.lu.day ∧ v.lu.nextSerial = g.lu.nextSerial
      ∧ (∀ c r, cartOf g c = some r → ∀ (gone : Prop), (gone ↔ r.state = .out ∧ ∃ e ∈ g.lu.loans, ∃ cs,
            (e.2.order, e.2.tag) ∈ ws ∧ e.2.body = .cartridge cs ∧ c ∈ cs ∧ r.tag = some e.2.tag) →
          (gone → cartOf v c = none) ∧ (¬ gone → cartOf v c = some r))
      ∧ (g.pp.events.length + ws.length ≤ 32 → v.pp.events = g.pp.events ++ ws.map (fun w => .loanWrittenOff w.2))
      ∧ v.wq = g.wq ∧ v.shu.holds = g.shu.holds ∧ v.fli = g.fli ∧ v.isc = g.isc ∧ v.mlc = g.mlc)
    ∧ (∀ (l : Loan) (item : Nat) (title : Title) (set : LoanTag) (part parts first last per : Nat) (s : State),
      l.body = .braille item title set part parts first last per →
      (∀ e ∈ s.lu.loans, e.2.body.copySet? = some set → e.2.state ≠ .carded ∧ e.2.state ≠ .inTransfer) →
      (∀ x, shelfOf s title = some x → x.onShelf < x.owned → (writeOff l s).1.shu.shelf
        = (s.shu.shelf.map (fun p => if p.2.title = title then (p.1, { p.2 with owned := p.2.owned - 1 }) else p)).filter
            (fun p => p.2.owned != 0))
      ∧ ((∀ x, shelfOf s title = some x → x.owned ≤ x.onShelf) → (writeOff l s).1.shu = s.shu))
    ∧ (∀ (ws : List (OrderSerial × LoanTag)) (tags : List LoanTag) (order : OrderSerial) (s : State),
      tags = (ws.filter (fun w => w.1 == order)).map (·.2) →
      (tagGroups tags.length tags).flatten = tags ∧ (∀ ts ∈ tagGroups tags.length tags, 1 ≤ ts.length ∧ ts.length ≤ 16)
        ∧ (∀ (i : Nat) (ts : List LoanTag), (tagGroups tags.length tags)[i]? = some ts →
            i + 1 < (tagGroups tags.length tags).length → ts.length = 16)
        ∧ (s.fli.txState ≠ .muted → s.fli.queue.length + (tagGroups tags.length tags).length ≤ 16 →
          closeWrittenOff ws s order = { s with fli := { s.fli with
            queue := s.fli.queue ++ (tagGroups tags.length tags).map (fun ts => closedFrame order 255 .writtenOff ts) } }))
    ∧ (∀ s : State, s.tablesSound →
      (lapseScan s).shu.holds = s.shu.holds.filter (fun h => h.offered.isSome || !(h.placed.any (fun p =>
          s.lu.dayKnown && decide (s.cfl.settings.holdLife < s.lu.day - p))))
        ∧ (lapseScan s).lu = s.lu ∧ (lapseScan s).cp = s.cp ∧ (lapseScan s).au = s.au
        ∧ ∀ gone : List Hold, gone = s.shu.holds.filter (fun h => h.offered.isNone && h.placed.any (fun p =>
            s.lu.dayKnown && decide (s.cfl.settings.holdLife < s.lu.day - p))) →
          (s.pp.events.length + gone.length ≤ 32 →
            (lapseScan s).pp.events = s.pp.events ++ gone.map (fun h => .holdLapsed h.order h.item))
          ∧ (s.fli.txState ≠ .muted → s.fli.queue.length + gone.length ≤ 16 → (lapseScan s).fli = { s.fli with
              queue := s.fli.queue ++ gone.map (fun h => closedFrame h.order h.item .lapsed []) })
          ∧ (lapseScan s).wq.plan = s.wq.plan
          ∧ (lapseScan s).wq.records = s.wq.records.map (fun r => { r with items := r.items.map (fun i =>
              if i.state = .held ∧ ∃ h ∈ gone, h.order = r.order ∧ h.item = i.index
              then { i with state := .cancelled } else i) })
          ∧ (lapseScan s).shu.due = s.shu.due ++ (gone.filter (·.setAside)).map (·.title)
          ∧ ∀ title, shelfOf (lapseScan s) title = (shelfOf s title).map (fun x => { x with
              reserved := x.reserved - (gone.filter (fun h => h.setAside && h.title == title)).length }))
    ∧ ∀ (f : Received) (tag : LoanTag) (s : State), tag = tagOf f.subject.toNat →
      (tag.station ≠ s.cfl.station ∨ f.payload.length ≠ 2 + 4 * (f.payload.getD 0 0).toNat
          ∨ 4 < (f.payload.getD 0 0).toNat ∨ 1 < (f.payload.getD 1 0).toNat → hearReturn f s = s)
      ∧ ∀ (serials : List CartSerial) (transfer : Bool), tag.station = s.cfl.station → serials.length ≤ 4 →
        f.payload = (returnFrame tag serials transfer).payload →
        hearReturn f s = { s with
          cp := { s.cp with records := s.cp.records.filter (fun e =>
            !(serials.contains e.2.serial && e.2.state == .out && e.2.tag == some tag)) }
          lu := { s.lu with loans :=
            if (loanOf s tag).map (·.state) = some .out ∨ (loanOf s tag).map (·.state) = some .overdue then
              (if transfer then s.lu.loans.map (fun e =>
                  if e.2.tag = tag then (e.1, { e.2 with state := .inTransfer }) else e)
                else s.lu.loans.filter (fun e => e.2.tag != tag))
            else s.lu.loans } }

/-! ## The mail lane -/

/-- R159, R191: PickDone, as its block acts on the command taken (R190; log 14 for the moment), makes the Pending pick
of an item of a Written bundle Picked; in every other case, and for an item index above 7 (in place of the act, log 14),
it is refused and changes nothing but the command slot and its outcome. -/
def Obligations.PickDoneConfirmsAPendingPick : Prop :=
  ∀ (t : Moment) (high : BitVec 4) (w : TakenCommand) (c s : State), s.pp.slot = .executing w →
    w.byte = high ++ 3#4 → c = s.at t →
    (∀ r b x, recordOf s (argOrder w) = some r → b ∈ r.bundles → b.state = .written → x ∈ b.riders →
      x.item = high.toNat → x.pick = some .pending → high.toNat ≤ 7 →
      ∃ v, exec (.pickDone t .act) s = .next (endCommand .accepted (mlcStage v))
        ∧ recordOf v (argOrder w) = some { r with bundles := r.bundles.map (fun b =>
            if b.state = .written then { b with riders := b.riders.map (fun x =>
              if x.item = high.toNat then { x with pick := some .picked } else x) } else b) }
        ∧ (∀ o, o ≠ argOrder w → recordOf v o = recordOf s o)
        ∧ v.wq.plan = s.wq.plan ∧ v.mlc = s.mlc ∧ v.lu = s.lu ∧ v.cp = s.cp ∧ v.shu = s.shu ∧ v.pp = c.pp)
    ∧ ((7 < high.toNat ∨ ∀ r b x, recordOf s (argOrder w) = some r → b ∈ r.bundles → b.state = .written →
          x ∈ b.riders → x.item = high.toNat → x.pick ≠ some .pending) →
      exec (.pickDone t .act) s = .next (endCommand .refused c))

/-- R53, R145, R148, R160 to R162: a Written bundle of which every cartridge is Packed and every pick made becomes
Packing and joins the lane list, with one container for its cartridges in position order and one for each four volumes
of every riding copy, items in rising order. MLC tests every bundle of the queue, in queue order, which is the order in
which bundles that become ready in one act join the lane list (the model's choice, log 82), sets the lane state, cards
the next container and sets the lane state again. The lane is Blocked for the first of its four reasons, with
LaneBlocked when it blocks or the reason changes. While the writer is Idle, the lane order has room, the day is known
and a loan position free, the first Uncarded container of the lane gets a Carded loan of the next serial: its cartridges
take the tag, the first part of a copy gives its tag to the set, the volumes per copy are the shelf entry's at that
moment (log 54 where it has gone), the loan joins the lane order and its card goes to the writer. Otherwise nothing is
carded. -/
def Obligations.PackingAndCardingMoveTheLane : Prop :=
  (∀ s : State, mlcStage s = updateLane (cardNext (updateLane (packBundles s)))
      ∧ packBundles s = s.wq.records.foldl (fun s r => r.bundles.foldl (packBundle r) s) s
      ∧ (packBundles s).mlc = { s.mlc with laneList := s.mlc.laneList ++ s.wq.records.flatMap (fun r =>
          (r.bundles.filter (readyToPack s r.order)).map (fun b => (r.order, b.number))) }
      ∧ ∀ (order : OrderSerial) (b : Bundle), readyToPack s order b = true ↔ b.state = .written
        ∧ (∀ e ∈ s.wq.plan, e.2.order = order → e.2.bundle = b.number →
            ∃ c x, e.2.link = some c ∧ cartOf s c = some x ∧ x.state = .packed)
        ∧ ∀ x ∈ b.riders, x.pick = some .picked)
    ∧ (∀ (r : WorkRecord) (b : Bundle) (s : State) (ready : Prop), (ready ↔ b.state = .written
      ∧ (∀ e ∈ s.wq.plan, e.2.order = r.order → e.2.bundle = b.number →
          ∃ c x, e.2.link = some c ∧ cartOf s c = some x ∧ x.state = .packed)
      ∧ ∀ x ∈ b.riders, x.pick = some .picked) →
    (¬ ready → packBundle r s b = s)
    ∧ (ready → packBundle r s b = { s with
      wq := { s.wq with records := s.wq.records.map (fun x => if x.order = r.order then { x with
        bundles := x.bundles.map (fun y => if y.number = b.number then { y with
          state := .packing
          containers := (match bundleCarts s r.order b.number with
            | [] => []
            | e :: es => [{ body := .cartridges ((e :: es).filterMap (fun y => y.2.link))
                            items := ((e :: es).flatMap (fun y => y.2.placements.map (·.item))).dedup
                            state := .uncarded, tag := none }])
            ++ (sortBy id (b.riders.map (·.item))).flatMap (copyContainers s r) } else y) } else x) }
      mlc := { s.mlc with laneList := s.mlc.laneList ++ [(r.order, b.number)] } }))
    ∧ (∀ (r : WorkRecord) (item : Nat) (i : WorkItem) (e : ShelfEntry) (s : State), r.item? item = some i →
      shelfOf s i.title = some e → (copyContainers s r item).length = ceilDiv e.perCopy 4
        ∧ ∀ (k : Nat) (c : Container), (copyContainers s r item)[k]? = some c → c = {
            body := .braille item i.title (k + 1) (ceilDiv e.perCopy 4) (4 * k + 1) (min (4 * k + 4) e.perCopy) e.perCopy
            items := [item], state := .uncarded, tag := none })
    ∧ (∀ s : State, (laneReason s = some .dayUnknown ↔ s.lu.dayKnown = false)
      ∧ (laneReason s = some .loansFull ↔ s.lu.dayKnown = true ∧ 2048 ≤ s.lu.loans.length)
      ∧ (laneReason s = some .laneOrderFull ↔ s.lu.dayKnown = true ∧ s.lu.loans.length < 2048
          ∧ 6 ≤ s.mlc.laneOrder.length)
      ∧ (laneReason s = some .noOpenBin ↔ s.lu.dayKnown = true ∧ s.lu.loans.length < 2048
          ∧ s.mlc.laneOrder.length < 6 ∧ ∃ x y, s.mlc.gate = .holding x y)
      ∧ (laneReason s = s.mlc.lane → updateLane s = s)
      ∧ (laneReason s = none → updateLane s = { s with mlc := { s.mlc with lane := none } })
      ∧ ∀ why, laneReason s = some why → s.mlc.lane ≠ some why →
        updateLane s = raise (.laneBlocked why) { s with mlc := { s.mlc with lane := some why } })
    ∧ (∀ (s : State) (sp : Spot) (c : Container), findContainer s (fun c => c.state == .uncarded) = some (sp, c) →
      c.state = .uncarded ∧ (∃ b, spotBundle s sp = some b ∧ b.containers[sp.index]? = some c
          ∧ ∀ (i : Nat) (x : Container), i < sp.index → b.containers[i]? = some x → x.state ≠ .uncarded)
        ∧ ∃ before after, s.mlc.laneList = before ++ (sp.order, sp.bundle) :: after
          ∧ ∀ e ∈ before, ∀ b, laneBundle s e = some b → ∀ x ∈ b.containers, x.state ≠ .uncarded)
    ∧ (∀ s : State, s.mlc.writer ≠ .idle ∨ 6 ≤ s.mlc.laneOrder.length ∨ s.lu.dayKnown = false
        ∨ Table.firstFree 2048 s.lu.loans = none
        ∨ (∀ e ∈ s.mlc.laneList, ∀ b, laneBundle s e = some b → ∀ x ∈ b.containers, x.state ≠ .uncarded) →
      cardNext s = s)
    ∧ ∀ (s : State) (sp : Spot) (c : Container) (k : Nat) (r : WorkRecord) (b : Bundle), s.mlc.writer = .idle →
      s.mlc.laneOrder.length < 6 → s.lu.dayKnown = true → Table.firstFree 2048 s.lu.loans = some k →
      findContainer s (fun c => c.state == .uncarded) = some (sp, c) → recordOf s sp.order = some r →
      spotBundle s sp = some b →
      ∃ v l b', cardNext s = v ∧ v.lu.loans.at? k = some l
        ∧ l.tag = { station := s.cfl.station, serial := nextLoanSerial s } ∧ l.state = .carded ∧ l.order = r.order
        ∧ l.patron = r.patron ∧ l.zone = r.zone ∧ l.carded = s.lu.day
        ∧ v.lu.nextSerial = nextLoanSerial s + 1
        ∧ (∀ cs, c.body = .cartridges cs → l.body = .cartridge cs ∧ b'.riders = b.riders
            ∧ ∀ x ∈ cs, ∀ y, cartOf s x = some y → cartOf v x = some { y with tag := some l.tag })
        ∧ (∀ item title part parts first last per, c.body = .braille item title part parts first last per →
            v.cp = s.cp
            ∧ l.body = .braille item title ((riderSet b item).getD l.tag) part parts first last
                ((shelfOf s title).elim per (·.perCopy))
            ∧ b'.riders = b.riders.map (fun x =>
                if x.item = item ∧ x.copySet = none then { x with copySet := some l.tag } else x))
        ∧ v.mlc = { s.mlc with laneOrder := s.mlc.laneOrder ++ [{ tag := l.tag, card := .writing }]
                               writer := .writing l.tag none, cardOut := cardBits l }
        ∧ spotBundle v sp = some b' ∧ b'.state = b.state
        ∧ b'.containers = b.containers.set sp.index { c with state := .carded, tag := some l.tag }
        ∧ v.wq.plan = s.wq.plan ∧ v.fli = s.fli ∧ v.shu = s.shu ∧ v.pp = s.pp

/-- R162, R163: the card deadline stands 2000 ms after the last bit of the image; Done makes the card Done and the
writer Idle, and lanes the bundle whose every card is printed; Fault and the card deadline make card and writer Fault
with CardFault; CardRewrite, as its block acts on the command taken (R190; log 14 for the moment), makes both Writing
again. An answer that the writer does not await is discarded, one for another tag too (log 18), and CardRewrite in
another state refused. -/
def Obligations.CardAnswersMoveTheWriter : Prop :=
  (∀ (t : Moment) (tag : LoanTag) (s : State), s.mlc.writer = .writing tag none →
    exec (.cardImageSent t) s
      = .next { s.at t with mlc := { s.mlc with writer := .writing tag (some (max s.clock t + 64000000)) } })
    ∧ (∀ (t : Moment) (tag : LoanTag) (d : Option Moment) (f s : State), s.mlc.writer = .writing tag d →
      f = raise (.cardFault tag) { s.at t with mlc := { s.mlc with
        writer := .fault tag
        laneOrder := s.mlc.laneOrder.map (fun l => if l.tag = tag then { l with card := .fault } else l) } } →
      exec (.cardFault t tag) s = .next f
        ∧ (∀ m, d = some m → m ≤ max s.clock t → exec (.cardDeadline t) s = .next f)
        ∧ ((∀ m, d = some m → max s.clock t < m) → exec (.cardDeadline t) s = .next (s.at t)))
    ∧ (∀ (t : Moment) (tag : LoanTag) (d : Option Moment) (s : State), s.mlc.writer = .writing tag d →
      ∃ v, exec (.cardDone t tag) s = .next (mlcStage v)
        ∧ v.mlc = { s.mlc with
            writer := .idle
            laneOrder := s.mlc.laneOrder.map (fun l => if l.tag = tag then { l with card := .done } else l) }
        ∧ v.lu = s.lu ∧ v.cp = s.cp ∧ v.pp = s.pp ∧ v.wq.plan = s.wq.plan
        ∧ (containerOf s tag = none → v.wq = s.wq)
        ∧ ∀ sp c b, containerOf s tag = some (sp, c) → spotBundle s sp = some b →
          spotBundle v sp = some (if b.state = .packing ∧ (∀ x ∈ b.containers, x.state = .entered
              ∨ (x.state = .carded ∧ ∃ l ∈ v.mlc.laneOrder, x.tag = some l.tag ∧ l.card = .done))
            then { b with state := .laned } else b))
    ∧ (∀ (t : Moment) (tag : LoanTag) (s : State), (∀ d, s.mlc.writer ≠ .writing tag d) →
      exec (.cardDone t tag) s = .next (s.at t) ∧ exec (.cardFault t tag) s = .next (s.at t))
    ∧ (∀ (t : Moment) (s : State), (∀ tag, s.mlc.writer ≠ .writing tag none) →
      exec (.cardImageSent t) s = .next (s.at t))
    ∧ (∀ (t : Moment) (s : State), (∀ tag d, s.mlc.writer ≠ .writing tag d) → exec (.cardDeadline t) s = .next (s.at t))
    ∧ ∀ (t : Moment) (high : BitVec 4) (w : TakenCommand) (c s : State), s.pp.slot = .executing w →
      w.byte = high ++ 8#4 → c = s.at t →
      (∀ tag l, s.mlc.writer = .fault tag → loanOf s tag = some l →
        exec (.cardRewrite t .act) s = .next (endCommand .accepted { c with mlc := { s.mlc with
          writer := .writing tag none, cardOut := cardBits l
          laneOrder := s.mlc.laneOrder.map (fun l => if l.tag = tag then { l with card := .writing } else l) } }))
      ∧ ((∀ tag, s.mlc.writer ≠ .fault tag) → exec (.cardRewrite t .act) s = .next (endCommand .refused c))

/-- R164, R191: ContainerWithdraw, as its block acts on the command taken (R190; log 14 for the moment), of a loan of
the lane order that is not at the gate removes the loan and its place in the lane order, makes its container Uncarded
without a tag, a Laned bundle Packing, and the writer Idle when it was Writing or in Fault for it; a braille item whose
other parts are all Uncarded loses its copy-set tag, which stays while one is Carded or Entered. A card still being
written is given up at once (log 63). Any other tag is refused and nothing changes but the command slot and its outcome.
-/
def Obligations.WithdrawnContainerIsUncarded : Prop :=
  ∀ (t : Moment) (high : BitVec 4) (tag : LoanTag) (w : TakenCommand) (c s : State), s.pp.slot = .executing w →
    w.byte = high ++ 9#4 → tag = argTag w → c = s.at t →
    ((∃ l ∈ s.mlc.laneOrder, l.tag = tag) → (∀ b, s.mlc.gate ≠ .diverting (some tag) b) →
      (∀ b, s.mlc.gate ≠ .holding (some tag) b) →
      ∃ v, exec (.containerWithdraw t .act) s = .next (endCommand .accepted (mlcStage v))
        ∧ v.lu = { s.lu with loans := s.lu.loans.filter (fun e => e.2.tag != tag) }
        ∧ v.mlc.laneOrder = s.mlc.laneOrder.filter (fun l => l.tag != tag)
        ∧ v.mlc.writer = (match s.mlc.writer with
            | .writing x d => if x = tag then .idle else .writing x d
            | .fault x => if x = tag then .idle else .fault x
            | .idle => .idle)
        ∧ v.mlc.gate = s.mlc.gate ∧ v.mlc.bins = s.mlc.bins ∧ v.mlc.laneList = s.mlc.laneList ∧ v.shu = s.shu
        ∧ v.wq.plan = s.wq.plan ∧ v.pp = c.pp
        ∧ ∀ sp x b, containerOf s tag = some (sp, x) → spotBundle s sp = some b →
          ∃ b', spotBundle v sp = some b' ∧ b'.containers[sp.index]? = some { x with state := .uncarded, tag := none }
            ∧ (∀ i, i ≠ sp.index → b'.containers[i]? = b.containers[i]?)
            ∧ b'.state = (if b.state = .laned then .packing else b.state)
            ∧ ((∃ serials, x.body = .cartridges serials) → b'.riders = b.riders)
            ∧ (∀ item title k n first last per, x.body = .braille item title k n first last per →
              ((∀ i y, i ≠ sp.index → b.containers[i]? = some y → y.items = [item] → y.serials = [] →
                  y.state = .uncarded) →
                b'.riders = b.riders.map (fun z => if z.item = item then { z with copySet := none } else z))
              ∧ ((∃ i y, i ≠ sp.index ∧ b.containers[i]? = some y ∧ y.items = [item] ∧ y.serials = []
                  ∧ y.state ≠ .uncarded) → b'.riders = b.riders))
            ∧ ∀ y ∈ x.serials, ∀ r, cartOf s y = some r → cartOf v y = some { r with tag := none })
    ∧ ((∀ l ∈ s.mlc.laneOrder, l.tag ≠ tag) ∨ (∃ b, s.mlc.gate = .diverting (some tag) b)
          ∨ (∃ b, s.mlc.gate = .holding (some tag) b) →
      exec (.containerWithdraw t .act) s = .next (endCommand .refused c))

/-- R165 to R167: a detection at the Empty gate takes the oldest loan of the lane order whose card is Done to the bin
of the first sort rule that matches by the loan's zone and kind, the container's weight and the record's urgency, or the
default bin, and an unexpected container to the overflow bin; the gate
diverts into that bin if it is Open, else into the overflow bin if that is Open, else it holds. A detection in another
gate state is ignored. R168, R169: at the acknowledge of a Diverting gate the bin counts the container, takes its tag,
and becomes Full at its capacity with BinFull; the gate is Empty. The loan of a matched container is Out and leaves
the lane order; its cartridges are Out, the container Entered, and the record counts the gate entry and keeps the tag
with the item indices while it keeps fewer than 16 (R53). The first part of a copy set takes the copy off the shelf
(R131). When every container of the bundle is Entered, it leaves the lane list and is mailed. Otherwise the acknowledge
is ignored. -/
def Obligations.GateTakesContainersToBins : Prop :=
  ((∀ (t : Moment) (l : LaneSlot) (bin : Nat) (s : State), s.mlc.gate = .empty →
    s.mlc.laneOrder.find? (fun l => l.card == .done) = some l →
    bin = chooseBin s.cfl.settings.rules s.cfl.settings.defaultBin (ruleFields s l.tag) →
    exec (.detection t) s = .next (updateLane { s.at t with mlc := { s.mlc with
      gate := if binOpen s bin then .diverting (some l.tag) bin
        else if binOpen s s.cfl.settings.overflowBin then .diverting (some l.tag) s.cfl.settings.overflowBin
        else .holding (some l.tag) bin } }))
    ∧ (∀ (t : Moment) (s : State), s.mlc.gate = .empty → (∀ l ∈ s.mlc.laneOrder, l.card ≠ .done) →
      exec (.detection t) s = .next (updateLane { raise .unexpectedContainer (s.at t) with mlc := { s.mlc with
        gate := if binOpen s s.cfl.settings.overflowBin then .diverting none s.cfl.settings.overflowBin
          else .holding none s.cfl.settings.overflowBin } }))
    ∧ (∀ (t : Moment) (s : State), s.mlc.gate ≠ .empty → exec (.detection t) s = .next (s.at t))
    ∧ (∀ (before after : List SortRule) (r : SortRule) (default : Nat) (f : RuleFields),
      (∀ q ∈ before, q.test.passes q.lo q.hi (f.get q.field) = false) → r.test.passes r.lo r.hi (f.get r.field) = true →
      chooseBin (before ++ r :: after) default f = r.bin)
    ∧ (∀ (rules : List SortRule) (default : Nat) (f : RuleFields),
      (∀ q ∈ rules, q.test.passes q.lo q.hi (f.get q.field) = false) → chooseBin rules default f = default)
    ∧ (∀ (tag : LoanTag) (l : Loan) (s : State), loanOf s tag = some l →
      (ruleFields s tag).get .zone = l.zone
      ∧ ((∃ serials, l.body = .cartridge serials) → (ruleFields s tag).get .kind = 0)
      ∧ ((∃ item title set k n first last per, l.body = .braille item title set k n first last per) →
          (ruleFields s tag).get .kind = 1)
      ∧ (∀ sp c, containerOf s tag = some (sp, c) →
          (∀ serials, c.body = .cartridges serials → (ruleFields s tag).get .weight = serials.length)
          ∧ ∀ item title k n first last per, c.body = .braille item title k n first last per →
            (ruleFields s tag).get .weight = last + 1 - first)
      ∧ ∀ r, recordOf s l.order = some r → (r.urgency = .normal → (ruleFields s tag).get .urgency = 0)
          ∧ (r.urgency = .urgent → (ruleFields s tag).get .urgency = 1))
    ∧ ∀ lo hi v : Nat, (RuleTest.equal.passes lo hi v = true ↔ v = lo) ∧ (RuleTest.notEqual.passes lo hi v = true ↔ v ≠ lo)
      ∧ (RuleTest.less.passes lo hi v = true ↔ v < lo) ∧ (RuleTest.greaterOrEqual.passes lo hi v = true ↔ lo ≤ v)
      ∧ (RuleTest.inside.passes lo hi v = true ↔ lo ≤ v ∧ v ≤ hi)
      ∧ (RuleTest.outside.passes lo hi v = true ↔ v < lo ∨ hi < v))
    ∧ ((∀ (t : Moment) (tag : Option LoanTag) (bin : Nat) (b : Bin) (s : State), s.mlc.gate = .diverting tag bin →
    s.mlc.bins[bin]? = some b →
    ∃ v, exec (.diverterAcknowledge t) s = .next (mlcStage (shelfStage v)) ∧ v.mlc.gate = .empty
      ∧ v.mlc.bins[bin]? = some { b with
          count := b.count + 1
          first := if b.first = none then tag else b.first
          last := if tag = none then b.last else tag
          state := if b.capacity ≤ b.count + 1 then .full else b.state }
      ∧ (∀ j, j ≠ bin → v.mlc.bins[j]? = s.mlc.bins[j]?)
      ∧ v.mlc.writer = s.mlc.writer ∧ v.mlc.manifest = s.mlc.manifest
      ∧ (b.state = .open → b.capacity ≤ b.count + 1 → s.pp.events.length < 32 → Event.binFull bin ∈ v.pp.events)
      ∧ (tag = none → v.wq = s.wq ∧ v.lu = s.lu ∧ v.cp = s.cp ∧ v.shu = s.shu ∧ v.mlc.laneOrder = s.mlc.laneOrder)
      ∧ ∀ x, tag = some x →
        v.mlc.laneOrder = s.mlc.laneOrder.filter (fun l => l.tag != x)
          ∧ v.lu.loans = s.lu.loans.map (fun p =>
              if p.2.tag = x ∧ p.2.state = .carded then (p.1, { p.2 with state := .out }) else p)
          ∧ (containerOf s x = none → v.wq = s.wq ∧ v.cp = s.cp ∧ v.shu = s.shu ∧ v.mlc.laneList = s.mlc.laneList)
          ∧ ∀ sp c b w, containerOf s x = some (sp, c) → spotBundle s sp = some b → recordOf s sp.order = some w →
            (∀ y ∈ c.serials, ∀ r, cartOf v y = some r → r.state = .out)
            ∧ ∃ u b' w', spotBundle u sp = some b' ∧ recordOf u sp.order = some w'
              ∧ b'.containers[sp.index]? = some { c with state := .entered }
              ∧ (∀ i, i ≠ sp.index → b'.containers[i]? = b.containers[i]?)
              ∧ { b' with containers := b.containers } = b
              ∧ w'.items = w.items ∧ w'.gateCount = min 255 (w.gateCount + 1)
              ∧ w'.mailedTags = (if w.mailedTags.length < 16 then w.mailedTags ++ [(x, c.items)] else w.mailedTags)
              ∧ u.wq.plan = s.wq.plan
              ∧ ((∃ serials, c.body = .cartridges serials) → u.shu = s.shu)
              ∧ (∀ item title k n first last per, c.body = .braille item title k n first last per →
                ((∀ y ∈ b.containers, y.items = [item] → y.serials = [] → y.state ≠ .entered) →
                  u.shu = { s.shu with shelf := s.shu.shelf.map (fun p => if p.2.title = title
                    then (p.1, { p.2 with onShelf := p.2.onShelf - 1, reserved := p.2.reserved - 1 }) else p) })
                ∧ ((∃ y ∈ b.containers, y.items = [item] ∧ y.serials = [] ∧ y.state = .entered) → u.shu = s.shu))
              ∧ ((∀ y ∈ b'.containers, y.state = .entered) →
                v = mailBundle sp.order sp.bundle u
                  ∧ v.mlc.laneList = s.mlc.laneList.filter (fun z => z != (sp.order, sp.bundle)))
              ∧ ((∃ y ∈ b'.containers, y.state ≠ .entered) → v = u ∧ v.mlc.laneList = s.mlc.laneList))
    ∧ ∀ (t : Moment) (s : State), (∀ tag bin, s.mlc.gate ≠ .diverting tag bin) →
      exec (.diverterAcknowledge t) s = .next (s.at t))

/-- R170, R172, R167: SackChanged, as its block acts on the command taken (R190; log 14 for the moment), writes the
manifest record of the sack at the write position, moves that position and the sack number on, opens the bin empty, and
lets a Holding gate try again; it is refused for a Disabled bin, the bin that the gate diverts into and a number above
11 (in place of the act, log 14). -/
def Obligations.SackChangedOpensANewSack : Prop :=
  ∀ (t : Moment) (high : BitVec 4) (bin : Nat) (w : TakenCommand) (c s : State), s.pp.slot = .executing w →
    w.byte = high ++ 6#4 → bin = w.arg0.toNat → c = s.at t →
    (∀ b, bin ≤ 11 → s.mlc.bins[bin]? = some b → b.state ≠ .disabled → (∀ x, s.mlc.gate ≠ .diverting x bin) →
      ∃ v, exec (.sackChanged t .act) s = .next (endCommand .accepted (updateLane v))
        ∧ v.mlc.manifest.at? s.mlc.writePos = some {
            sack := s.mlc.sackNo, bin := bin, count := b.count, first := b.first, last := b.last, day := s.lu.day
            dayKnown := s.lu.dayKnown }
        ∧ (∀ j, j ≠ s.mlc.writePos → v.mlc.manifest.at? j = s.mlc.manifest.at? j)
        ∧ v.mlc.writePos = (s.mlc.writePos + 1) % 64 ∧ v.mlc.sackNo = (s.mlc.sackNo + 1) % 65536
        ∧ v.mlc.bins[bin]? = some { b with state := .open, count := 0, first := none, last := none }
        ∧ (∀ j, j ≠ bin → v.mlc.bins[j]? = s.mlc.bins[j]?)
        ∧ ((∀ x y, s.mlc.gate ≠ .holding x y) → v.mlc.gate = s.mlc.gate)
        ∧ (∀ x y, s.mlc.gate = .holding x y → v.mlc.gate = (if binOpen v y then .diverting x y
            else if binOpen v s.cfl.settings.overflowBin then .diverting x s.cfl.settings.overflowBin
            else .holding x y))
        ∧ v.mlc.laneOrder = s.mlc.laneOrder ∧ v.mlc.writer = s.mlc.writer ∧ v.lu = s.lu ∧ v.wq = s.wq ∧ v.pp = c.pp)
    ∧ (11 < bin ∨ (s.mlc.bins[bin]?).map (·.state) = some .disabled ∨ (∃ x, s.mlc.gate = .diverting x bin) →
      exec (.sackChanged t .act) s = .next (endCommand .refused c))

/-- R171, R190, R191: SackClose, as its block acts on the command taken, makes an Open bin Full at its current count and
changes nothing else but the command slot and its outcome; it is refused for a Disabled bin, for a bin already Full, for
a bin number above 11 (the moment of that refusal is the model's choice, log 14) and for the bin the gate is diverting
into. A container for which the rules choose the closed bin goes to the overflow bin or is held. -/
def Obligations.SackCloseFillsTheBin : Prop :=
  (∀ (t : Moment) (high : BitVec 4) (bin : Nat) (w : TakenCommand) (c s : State), s.pp.slot = .executing w →
    w.byte = high ++ 7#4 → bin = w.arg0.toNat → c = s.at t →
    (∀ b, bin ≤ 11 → s.mlc.bins[bin]? = some b → b.state = .open → (∀ x, s.mlc.gate ≠ .diverting x bin) →
      exec (.sackClose t .act) s = .next (endCommand .accepted { c with mlc := { s.mlc with
        bins := s.mlc.bins.set bin { b with state := .full } } }))
    ∧ (11 < bin ∨ (s.mlc.bins[bin]?).map (·.state) ≠ some .open ∨ (∃ x, s.mlc.gate = .diverting x bin) →
      exec (.sackClose t .act) s = .next (endCommand .refused c)))
    ∧ ∀ (tag : Option LoanTag) (bin : Nat) (b : Bin) (s : State), s.mlc.bins[bin]? = some b → b.state ≠ .open →
      (aimGate tag bin s).mlc.gate = (if binOpen s s.cfl.settings.overflowBin
        then .diverting tag s.cfl.settings.overflowBin else .holding tag bin)

/-! ## Returns -/

/-- R174 to R182: the reader's reports move the chute: container present from Idle to Reading with the read deadline
100 ms ahead, a read failure or the read deadline to Routing for the manual bin with ReturnUnread, route done from
Routing to Idle; in another state each is ignored. A complete image, read from its bits, is decoded while Reading: one
that fails a test of R175 on its fields (R152, R201) is unreadable (both the check digit and another: check digit, log
64; a digit above 9 is taken as it stands, log 24), and station digits 0 name no owner. An unreadable card, one without an owner and one whose loan is still Carded go to the manual bin with their reason; a
repeat goes by the recorded route; an own cartridge loan closes and its cartridges are taken in; of an own braille
loan the last part brings the copy home, another part nothing; another station's card goes to intake or transfer with
a RETURN; a stray raises StrayReturn, its cartridges are taken in, and a stray part 1 of a title with an entry adds a
copy. Every card that passes becomes the last card read, an ownerless one not (log 25). -/
def Obligations.ChuteReadsAndRoutesReturns : Prop :=
  (∀ (f : List Byte) (b d : Nat → Nat) (station serial : Nat) (wrongCheck badFormat : Prop),
    (∀ i, b i = (f.getD i 0).toNat) → (∀ j, d j = b ((9 - j) / 2) / 16 ^ ((9 - j) % 2) % 16) →
    station = 10 * d 0 + d 1 → serial = 1000000 * d 2 + 100000 * d 3 + 10000 * d 4 + 1000 * d 5 + 100 * d 6 + 10 * d 7 + d 8 →
    (wrongCheck ↔
      d 9 ≠ (10 - (3 * d 0 + d 1 + 3 * d 2 + d 3 + 3 * d 4 + d 5 + 3 * d 6 + d 7 + 3 * d 8) % 10) % 10) →
    (badFormat ↔ 15 < station ∨ 1048575 < serial ∨ 1 < b 5 ∨ (b 5 = 0 ∧ (b 6 < 1 ∨ 4 < b 6))
      ∨ (b 5 = 1 ∧ (b 12 < 1 ∨ b 13 < b 12 ∨ 3 < b 13 ∨ b 14 + 3 ≠ 4 * b 12 ∨ b 15 < b 14 ∨ 4 * b 12 < b 15
          ∨ b 11 / 16 ≠ station))) →
    (wrongCheck → readCard f = .unreadable .checkDigit)
      ∧ (¬ wrongCheck → badFormat → readCard f = .unreadable .format)
      ∧ (¬ wrongCheck → ¬ badFormat → station = 0 → readCard f = .noOwner)
      ∧ (¬ wrongCheck → ¬ badFormat → station ≠ 0 → readCard f = .card {
          tag := { station := BitVec.ofNat 4 station, serial := BitVec.ofNat 20 serial }
          body := if b 5 = 0 then .cartridge ((List.range (b 6)).map (fun i => BitVec.ofNat 32
              (b (7 + 4 * i) + 256 * b (8 + 4 * i) + 65536 * b (9 + 4 * i) + 16777216 * b (10 + 4 * i))))
            else .braille (BitVec.ofNat 24 (b 6 + 256 * b 7 + 65536 * b 8))
              { station := BitVec.ofNat 4 (b 11 / 16), serial := BitVec.ofNat 20 (b 9 + 256 * b 10 + 65536 * b 11) }
              (b 12) (b 13) (b 14) (b 15) }))
    ∧ (∀ (t : Moment) (s : State),
    (s.rti.chute = .idle → exec (.containerPresent t) s
      = .next { s.at t with rti := { s.rti with chute := .reading, deadline := some (max s.clock t + 3200000) } })
    ∧ (s.rti.chute ≠ .idle → exec (.containerPresent t) s = .next (s.at t))
    ∧ (s.rti.chute = .reading → exec (.chuteReadFailure t) s
      = .next { raise (.returnUnread .readFailure) (s.at t) with rti := { s.rti with
          chute := .routing, deadline := none, route := some .manual } })
    ∧ (s.rti.chute ≠ .reading → exec (.chuteReadFailure t) s = .next (s.at t))
    ∧ (∀ d, s.rti.chute = .reading → s.rti.deadline = some d → d ≤ max s.clock t → exec (.readDeadline t) s
      = .next { raise (.returnUnread .readFailure) (s.at t) with rti := { s.rti with
          chute := .routing, deadline := none, route := some .manual } })
    ∧ (s.rti.chute ≠ .reading ∨ (∀ d, s.rti.deadline = some d → max s.clock t < d) →
      exec (.readDeadline t) s = .next (s.at t))
    ∧ (s.rti.chute = .routing → exec (.routeDone t) s
      = .next { s.at t with rti := { s.rti with chute := .idle, deadline := none, route := none } })
    ∧ (s.rti.chute ≠ .routing → exec (.routeDone t) s = .next (s.at t)))
    ∧ ((∀ (t : Moment) (bits : List Bool) (face : List Byte) (s : State), s.rti.chute = .reading → face = faceOf bits →
    (∀ why, readCard face = .unreadable why → exec (.cardImageComplete t bits) s
      = .next (mlcStage (shelfStage { raise (.returnUnread why) (s.at t) with rti := { s.rti with
          chute := .routing, deadline := none, route := some .manual } })))
    ∧ (readCard face = .noOwner → exec (.cardImageComplete t bits) s
      = .next (mlcStage (shelfStage { raise (.returnUnread .noOwner) (s.at t) with rti := { s.rti with
          chute := .routing, deadline := none, route := some .manual } })))
    ∧ ∀ c, readCard face = .card c →
      (∀ r, s.rti.lastCard = some (c, r) → exec (.cardImageComplete t bits) s
        = .next (mlcStage (shelfStage { s.at t with rti := { s.rti with
            chute := .routing, deadline := none, route := some r } })))
      ∧ ((∀ r, s.rti.lastCard ≠ some (c, r)) →
        (∀ l, c.tag.station = s.cfl.station → loanOf s c.tag = some l → l.state = .carded →
          exec (.cardImageComplete t bits) s
            = .next (mlcStage (shelfStage { raise (.returnUnread .notMailed) (s.at t) with rti := { s.rti with
                chute := .routing, deadline := none, route := some .manual, lastCard := some (c, .manual) } })))
        ∧ (∀ l held serials, c.tag.station = s.cfl.station → loanOf s c.tag = some l → l.state ≠ .carded →
          l.body = .cartridge held → c.body = .cartridge serials →
          exec (.cardImageComplete t bits) s = .next (mlcStage (shelfStage { serials.foldl chuteEntry
            { s.at t with lu := { s.lu with loans := s.lu.loans.filter (fun e => e.2.tag != c.tag) } } with
              rti := { s.rti with
                chute := .routing, deadline := none, route := some .intake, lastCard := some (c, .intake) } })))
        ∧ (∀ serials, c.tag.station = s.cfl.station → loanOf s c.tag = none → c.body = .cartridge serials →
          exec (.cardImageComplete t bits) s = .next (mlcStage (shelfStage { serials.foldl chuteEntry
            (raise (.strayReturn c.tag) (s.at t)) with rti := { s.rti with
                chute := .routing, deadline := none, route := some .intake, lastCard := some (c, .intake) } })))
        ∧ (∀ l item title set part parts first last per g, c.tag.station = s.cfl.station →
          loanOf s c.tag = some l → l.state ≠ .carded → l.body = .braille item title set part parts first last per →
          g = { s.at t with lu := { s.lu with loans := s.lu.loans.filter (fun e => e.2.tag != c.tag) } } →
          ((∃ e ∈ g.lu.loans, e.2.body.copySet? = some set) → exec (.cardImageComplete t bits) s
            = .next (mlcStage (shelfStage { g with rti := { s.rti with
              chute := .routing, deadline := none, route := some .intake, lastCard := some (c, .intake) } })))
          ∧ ((∀ e ∈ g.lu.loans, e.2.body.copySet? ≠ some set) → ∀ u r, bringHome title per g = (u, r) →
            exec (.cardImageComplete t bits) s = .next (mlcStage (shelfStage { u with rti := { s.rti with
              chute := .routing, deadline := none, route := some r, lastCard := some (c, r) } }))))
        ∧ (∀ title set part parts first last g, c.tag.station = s.cfl.station → loanOf s c.tag = none →
          c.body = .braille title set part parts first last → g = raise (.strayReturn c.tag) (s.at t) →
          (shelfOf s title = none → exec (.cardImageComplete t bits) s
            = .next (mlcStage (shelfStage { g with rti := { s.rti with
              chute := .routing, deadline := none, route := some .manual, lastCard := some (c, .manual) } })))
          ∧ (shelfOf s title ≠ none → part ≠ 1 → exec (.cardImageComplete t bits) s
            = .next (mlcStage (shelfStage { g with rti := { s.rti with
              chute := .routing, deadline := none, route := some .intake, lastCard := some (c, .intake) } })))
          ∧ (∀ x, shelfOf s title = some x → part = 1 →
            (x.owned = 255 → exec (.cardImageComplete t bits) s
              = .next (mlcStage (shelfStage { g with rti := { s.rti with
              chute := .routing, deadline := none, route := some .manual, lastCard := some (c, .manual) } })))
            ∧ (x.owned ≠ 255 → exec (.cardImageComplete t bits) s
              = .next (mlcStage (shelfStage { g with
                  shu := { s.shu with
                    shelf := s.shu.shelf.map (fun p => if p.2.title = title then
                      (p.1, { p.2 with owned := p.2.owned + 1, onShelf := p.2.onShelf + 1 }) else p)
                    due := s.shu.due ++ [title] }
                  rti := { s.rti with
                    chute := .routing, deadline := none, route := some .intake, lastCard := some (c, .intake) } })))))
        ∧ (c.tag.station ≠ s.cfl.station → s.fli.txState ≠ .muted → s.fli.queue.length ≤ 15 →
          (∀ serials, c.body = .cartridge serials → exec (.cardImageComplete t bits) s
            = .next (mlcStage (shelfStage { serials.foldl chuteEntry (s.at t) with
                fli := { s.fli with queue := s.fli.queue ++ [returnFrame c.tag serials false] }
                rti := { s.rti with
                  chute := .routing, deadline := none, route := some .intake, lastCard := some (c, .intake) } })))
          ∧ (∀ title set part parts first last, c.body = .braille title set part parts first last →
            exec (.cardImageComplete t bits) s = .next (mlcStage (shelfStage { s.at t with
              fli := { s.fli with queue := s.fli.queue ++ [returnFrame c.tag [] true] }
              rti := { s.rti with
                chute := .routing, deadline := none, route := some .transfer, lastCard := some (c, .transfer) } }))))))
    ∧ ∀ (t : Moment) (bits : List Bool) (s : State), s.rti.chute ≠ .reading →
      exec (.cardImageComplete t bits) s = .next (s.at t))

/-- R119, R121, R125, R132, R178, R183: ReturnKeyed, as its block acts on the command taken (R190; log 14 for the
moment), closes an own loan that has been mailed: the cartridges that a cartridge loan still holds are entered at the
chute; for the last part of a copy set the copy comes home to the shelf entry, as a further copy when all it owns are on
the shelf, to a new entry when there is none, or is refused; another part changes nothing more. It is refused for
another station's tag, for a tag in no record and for a Carded loan. The chute and the last card read stay. An entry at
the chute makes an Out cartridge Returned and takes its links away (its planned cartridge stays written, log 48), a
Blank, Dirty or Missing one outside the rack Returned, and an unknown serial a Returned record where room can be made;
any other record stays as it is (log 53 for Ready and Written). -/
def Obligations.KeyedReturnClosesTheLoan : Prop :=
  (∀ (t : Moment) (high : BitVec 4) (tag : LoanTag) (w : TakenCommand) (c s : State), s.pp.slot = .executing w →
    w.byte = high ++ 10#4 → tag = argTag w → c = s.at t →
    (tag.station ≠ s.cfl.station ∨ loanOf s tag = none ∨ (loanOf s tag).map (·.state) = some .carded →
      exec (.returnKeyed t .act) s = .next (endCommand .refused c))
    ∧ ∀ l g, tag.station = s.cfl.station → loanOf s tag = some l → l.state ≠ .carded →
      g = { c with lu := { s.lu with loans := s.lu.loans.filter (fun e => e.2.tag != tag) } } →
      (∀ serials, l.body = .cartridge serials → exec (.returnKeyed t .act) s
        = .next (endCommand .accepted (mlcStage (shelfStage (serials.foldl chuteEntry g)))))
      ∧ (∀ item title set part parts first last per,
        l.body = .braille item title set part parts first last per →
        ((∃ e ∈ g.lu.loans, e.2.body.copySet? = some set) → exec (.returnKeyed t .act) s
          = .next (endCommand .accepted (mlcStage (shelfStage g))))
        ∧ ((∀ e ∈ g.lu.loans, e.2.body.copySet? ≠ some set) →
          (∀ x, shelfOf s title = some x → x.onShelf < x.owned → exec (.returnKeyed t .act) s
            = .next (endCommand .accepted (mlcStage (shelfStage { g with shu := { s.shu with
                shelf := s.shu.shelf.map (fun p => if p.2.title = title then
                  (p.1, { p.2 with onShelf := p.2.onShelf + 1 }) else p)
                due := s.shu.due ++ [title] } }))))
          ∧ (∀ x, shelfOf s title = some x → x.owned ≤ x.onShelf → x.owned ≠ 255 → exec (.returnKeyed t .act) s
            = .next (endCommand .accepted (mlcStage (shelfStage { g with shu := { s.shu with
                shelf := s.shu.shelf.map (fun p => if p.2.title = title then
                  (p.1, { p.2 with owned := p.2.owned + 1, onShelf := p.2.onShelf + 1 }) else p)
                due := s.shu.due ++ [title] } }))))
          ∧ (∀ k, shelfOf s title = none → Table.firstFree 1024 s.shu.shelf = some k → exec (.returnKeyed t .act) s
            = .next (endCommand .accepted (mlcStage (shelfStage { g with shu := { s.shu with
                shelf := Table.put k { title := title, perCopy := per, owned := 1, onShelf := 1, reserved := 0
                                       mark := false } s.shu.shelf
                due := s.shu.due ++ [title] } }))))
          ∧ (shelfOf s title = none → Table.firstFree 1024 s.shu.shelf = none → exec (.returnKeyed t .act) s
            = .next (endCommand .accepted (mlcStage (shelfStage (raise (.returnUnread .shelfRefused) g)))))
          ∧ (∀ x, shelfOf s title = some x → x.owned ≤ x.onShelf → x.owned = 255 → exec (.returnKeyed t .act) s
            = .next (endCommand .accepted (mlcStage (shelfStage (raise (.returnUnread .shelfRefused) g)))))))
      ∧ ∃ u, exec (.returnKeyed t .act) s = .next u ∧ u.rti = s.rti)
    ∧ (∀ (serial : CartSerial) (s v : State), v = chuteEntry s serial →
      (∀ r, cartOf s serial = some r →
        (r.state = .out → (∃ r', cartOf v serial = some r' ∧ r' = { r with
            state := .returned, tag := none, link := none, socket := none, stamp := r'.stamp })
          ∧ (r.link = none → v.wq = s.wq)
          ∧ (∀ slot, r.link = some slot → v.wq = { s.wq with plan := s.wq.plan.map (fun e =>
              if e.1 = slot then (e.1, if e.2.link = some serial then { e.2 with link := none } else e.2) else e) }))
        ∧ (r.state = .blank ∨ r.state = .dirty ∨ r.state = .missing → r.socket = none →
          (∃ r', cartOf v serial = some r' ∧ r' = { r with state := .returned, stamp := r'.stamp }) ∧ v.wq = s.wq)
        ∧ (r.state = .returned ∨ r.socket ≠ none ∧ r.state ≠ .out ∨ r.state = .ready ∨ r.state = .written
            ∨ r.state = .assigned ∨ r.state = .writing ∨ r.state = .verifying ∨ r.state = .packed ∨ r.state = .erasing
            ∨ r.state = .faulted ∨ r.state = .retired → v = s))
      ∧ (cartOf s serial = none →
        (∀ k, Table.firstFree 512 s.cp.records = some k ∨ (Table.firstFree 512 s.cp.records = none ∧ evictable s = some k) →
          v = { s with cp := {
            records := Table.put k { serial := serial, capClass := 0, e := 0, wear := 0, state := .returned, socket := none
                                     link := none, tag := none, stamp := min 4294967295 (s.cp.stamp + 1) }
              (if Table.firstFree 512 s.cp.records = none then Table.drop k s.cp.records else s.cp.records)
            stamp := min 4294967295 (s.cp.stamp + 1) } })
        ∧ (Table.firstFree 512 s.cp.records = none → evictable s = none → v = s))
      ∧ v.fli = s.fli ∧ v.au = s.au ∧ v.isc = s.isc ∧ v.de = s.de ∧ v.shu = s.shu ∧ v.lu = s.lu ∧ v.mlc = s.mlc
      ∧ v.rti = s.rti ∧ v.pp = s.pp)

/-! ## The panel port -/

/-- R126, R157, R185 to R189, R202: a pointer write takes table, index and offset, an index or offset out of range being
0, and marks the buffer stale; an argument write is latched and one of the status or data location ignored. A data read
returns the prefetch byte and fetches the next: of table 0 the head event's bytes, the fourth of which pops it; of a
table 1 to 14 the byte at the pointer of a record copied whole at its first fetch; of any other table 0. Each table has
its record count and record length, a record without one its zeros (an Empty socket its state, 1), and an occupied one
shows the fields of its table in chapter order, the summaries of pool and loans ahead of their records (the widths of
the fields, the form of an index or slot that may be absent, the bitmap of a bundle's confirmed picks, the place of a
loan's contents, and the bytes behind the last field are the model's choice, log 15; so is the position of a socket's operation while no sector or group is worked on, which reads 0, log 80; state
codes that no table numbers log 66, a state byte where a chapter lists none log 67). PINT and bit 0 of the status byte
say that the event queue holds a record, its other bits are the flags of R202, and the other locations read as they
stand. -/
def Obligations.DataReadsFollowThePointer : Prop :=
  (∀ (t : Moment) (table : Byte) (i o : Nat) (s : State), i = s.pp.arg0.toNat + 256 * s.pp.arg1.toNat →
    o = s.pp.arg2.toNat + 256 * s.pp.arg3.toNat → exec (.pointerWrite t table) s = .next { s.at t with pp := { s.pp with
      pointer := { table := table, index := if i < recordCount s table.toNat then i else 0,
                   offset := if o < recordLength table.toNat then o else 0 }
      buffer := { s.pp.buffer with stale := true } } })
    ∧ (∀ (t : Moment) (b : Byte) (s : State),
      exec (.registerWrite t (.argument 0) b) s = .next { s.at t with pp := { s.pp with arg0 := b } }
        ∧ exec (.registerWrite t (.argument 1) b) s = .next { s.at t with pp := { s.pp with arg1 := b } }
        ∧ exec (.registerWrite t (.argument 2) b) s = .next { s.at t with pp := { s.pp with arg2 := b } }
        ∧ exec (.registerWrite t (.argument 3) b) s = .next { s.at t with pp := { s.pp with arg3 := b } }
        ∧ exec (.registerWrite t .status b) s = .next (s.at t) ∧ exec (.registerWrite t .data b) s = .next (s.at t))
    ∧ (∀ (t : Moment) (s : State), s.pp.pointer.table = 0 →
      (s.pp.pointer.offset = 0 → s.pp.events = [] →
        exec (.eventRead t) s = .next { s.at t with pp := { s.pp with dataOut := s.pp.prefetch, prefetch := 0 } })
      ∧ (∀ e rest, s.pp.events = e :: rest →
        (s.pp.pointer.offset < 3 → exec (.eventRead t) s = .next { s.at t with pp := { s.pp with
          dataOut := s.pp.prefetch, prefetch := e.bytes.getD s.pp.pointer.offset 0
          pointer := { s.pp.pointer with offset := s.pp.pointer.offset + 1 } } })
        ∧ (s.pp.pointer.offset = 3 → exec (.eventRead t) s = .next { s.at t with pp := { s.pp with
          dataOut := s.pp.prefetch, prefetch := e.bytes.getD 3 0, pointer := { s.pp.pointer with offset := 0 }
          events := if s.pp.eventsLost then rest ++ [.eventsLost s.pp.drops] else rest
          drops := if s.pp.eventsLost then 0 else s.pp.drops
          eventsLost := false } })))
    ∧ (∀ (t : Moment) (b : RecordBuffer) (s : State), 1 ≤ s.pp.pointer.table.toNat → s.pp.pointer.table.toNat ≤ 14 →
      b = (if s.pp.buffer.stale = true ∨ s.pp.buffer.table ≠ s.pp.pointer.table ∨ s.pp.buffer.index ≠ s.pp.pointer.index
        then { table := s.pp.pointer.table, index := s.pp.pointer.index
               bytes := windowRecord s s.pp.pointer.table.toNat s.pp.pointer.index, stale := false }
        else s.pp.buffer) →
      exec (.recordWindowRead t) s = .next { s.at t with pp := { s.pp with
        dataOut := s.pp.prefetch, buffer := b, prefetch := b.bytes.getD s.pp.pointer.offset 0
        pointer := if s.pp.pointer.offset + 1 < recordLength s.pp.pointer.table.toNat
            then { s.pp.pointer with offset := s.pp.pointer.offset + 1 }
          else { s.pp.pointer with offset := 0, index :=
            if s.pp.pointer.index + 1 < recordCount s s.pp.pointer.table.toNat then s.pp.pointer.index + 1 else 0 } } })
    ∧ (∀ (t : Moment) (s : State), 14 < s.pp.pointer.table.toNat →
      exec (.recordWindowRead t) s = .next { s.at t with pp := { s.pp with dataOut := s.pp.prefetch, prefetch := 0 } })
    ∧ (∀ (s : State) (table index : Nat), (windowRecord s table index).length = recordLength table)
    ∧ (∀ s : State, (List.range' 1 14).map recordLength = [32, 208, 256, 112, 32, 36, 16, 40, 24, 4, 24, 40, 8, 16]
      ∧ (List.range' 1 14).map (recordCount s)
        = [1, 17, 32, 128, 128, 513, 1024, 2049, 513, s.cfl.settings.storeChunks, 8, 13, 16, 64]
      ∧ ∀ n, n = 0 ∨ 14 < n → recordLength n = 0 ∧ recordCount s n = 0)
    ∧ (∀ (s : State) (i : Nat) (free : Nat → Nat → Prop),
      (∀ table index, free table index ↔ windowRecord s table index = List.replicate (recordLength table) 0) →
      (s.au.entries.at? i = none → free 2 (i + 1)) ∧ (s.wq.records[i]? = none → free 3 i)
      ∧ (s.wq.plan.at? i = none → free 4 i) ∧ (s.shu.holds[i]? = none → free 5 i)
      ∧ (s.cp.records.at? i = none → free 6 (i + 1)) ∧ (s.shu.shelf.at? i = none → free 7 i)
      ∧ (s.lu.loans.at? i = none → free 8 (i + 1)) ∧ (s.isc.directory.at? i = none → free 9 (i + 1))
      ∧ (s.isc.chains.at? i = none → free 10 i) ∧ (s.cfl.settings.rules[i]? = none → free 13 i)
      ∧ (s.mlc.manifest.length ≤ i → Table.wf 64 s.mlc.manifest = true → free 14 i)
      ∧ (s.de.sockets.at? i = none → s.shows 11 i (byte 1 ++ List.replicate 20 0)))
    ∧ (∀ s : State, s.shows 1 0 (byte s.cfl.station.toNat ++ byte s.fli.txState.code ++ flag s.pp.pause
          ++ word s.fli.collisions ++ byte s.fli.queue.length
          ++ zeroTo 24 (s.rti.lastCard.elim [] (fun c => returnFace c.1 ++ byte c.2.code)))
      ∧ s.shows 2 0 (word s.au.malformed ++ word s.au.declined)
      ∧ s.shows 6 0 (([.ready, .blank, .assigned, .writing, .verifying, .written, .packed, .out, .returned, .dirty,
            .erasing, .missing, .faulted, .retired] : List CartState).flatMap
              (fun st => word (s.cp.records.filter (fun e => e.2.state == st)).length)
          ++ word (512 - s.cp.records.length)
          ++ word ((s.cp.records.filter (fun e => e.2.state == .ready)).length
            + (s.cp.records.filter (fun e => e.2.state == .blank)).length
            - (s.wq.plan.filter (fun e => !e.2.written && e.2.link.isNone)).length)
          ++ quad s.cp.stamp)
      ∧ s.shows 8 0 (([.carded, .out, .overdue, .inTransfer] : List LoanState).flatMap
              (fun st => word (s.lu.loans.filter (fun e => e.2.state == st)).length)
          ++ word (2048 - s.lu.loans.length) ++ bytesLE 3 s.lu.nextSerial.toNat ++ word s.lu.day ++ flag s.lu.dayKnown
          ++ word s.lu.writeOffs)
      ∧ s.shows 9 0 (word s.isc.guardDiscards ++ word (s.cfl.settings.storeChunks - s.isc.chains.length)
          ++ quad s.isc.useCounter)
      ∧ s.shows 12 0 (byte (if s.mlc.lane.isSome then 2 else 1) ++ byte (s.mlc.lane.elim 0 BlockReason.code)
          ++ (match s.mlc.writer with
            | .idle => byte 1 ++ bytesLE 3 0
            | .writing t _ => byte 2 ++ bytesLE 3 (tagCode t)
            | .fault t => byte 3 ++ bytesLE 3 (tagCode t))
          ++ byte s.mlc.gate.code
          ++ zeroTo 24 (s.mlc.laneOrder.flatMap (fun l => bytesLE 3 (tagCode l.tag) ++ byte l.card.code))
          ++ word s.mlc.sackNo ++ byte s.mlc.writePos ++ byte s.cfl.settings.defaultBin
          ++ byte s.cfl.settings.overflowBin))
    ∧ (∀ (s : State) (i : Nat),
      (∀ e, s.au.entries.at? i = some e → s.shows 2 (i + 1) (quad e.order.toNat ++ zeroTo 64 (offerBytes e.offer)
          ++ byte e.state.code ++ word e.cost ++ byte e.key.toNat
          ++ [e.flags.images, e.flags.copies, e.flags.cartridges] ++ byte e.ownBid.code
          ++ zeroTo 105 (e.heard.flatMap (fun h => byte h.station.toNat ++ word h.cost ++ byte h.key.toNat
            ++ [h.flags.images, h.flags.copies, h.flags.cartridges]))
          ++ momentBytes (some e.windowDeadline) ++ momentBytes e.takeDeadline ++ byte (e.rank.getD 0)))
      ∧ (∀ r, s.wq.records[i]? = some r → s.shows 3 i (byte 1 ++ quad r.order.toNat ++ quad r.patron.toNat
          ++ word r.zone ++ byte r.urgency.code ++ flag r.takenWhole
          ++ r.precedence.elim [0, 0, 0] (fun p => word p.1 ++ byte p.2.toNat)
          ++ zeroTo 30 (r.sources.flatMap (fun x => byte x.1.toNat ++ [x.2]))
          ++ (List.range 8).flatMap (fun j => zeroTo 9 ((r.item? j).elim [] (fun x => byte x.kind.code
            ++ bytesLE 3 x.title.toNat ++ byte x.version.toNat ++ word x.amount ++ byte x.state.code
            ++ flag x.holdServed)))
          ++ (List.range 8).flatMap (fun n => zeroTo 8 ((r.bundle? (n + 1)).elim [] (fun b => byte b.number
            ++ zeroTo 4 ((bundleCarts s r.order (n + 1)).flatMap (fun e => byte (e.1 + 1)))
            ++ [bitmap (b.riders.map (·.item))]
            ++ [bitmap ((b.riders.filter (fun x => x.pick == some .picked)).map (·.item))] ++ byte b.state.code)))
          ++ byte (r.items.filter (fun x => x.state == .held)).length ++ byte r.endMark.code ++ byte r.gateCount
          ++ zeroTo 64 (r.mailedTags.flatMap (fun t => bytesLE 3 (tagCode t.1) ++ [bitmap t.2]))))
      ∧ (∀ pc, s.wq.plan.at? i = some pc → s.shows 4 i (byte (conditionOf pc).code ++ quad pc.order.toNat
          ++ byte pc.bundle ++ byte pc.position ++ zeroTo 64 (pc.placements.flatMap (fun p => byte p.item ++ byte p.part
            ++ word p.imageStart ++ word p.length ++ word p.cartStart))
          ++ quad (pc.link.elim 0 (·.toNat)) ++ flag pc.loadAsked))
      ∧ (∀ h, s.shu.holds[i]? = some h → s.shows 5 i (quad h.order.toNat ++ byte h.item ++ bytesLE 3 h.title.toNat
          ++ byte h.version.toNat ++ byte h.volumes ++ quad h.patron.toNat ++ word h.zone ++ byte h.urgency.code
          ++ word (h.placed.getD 0) ++ quad h.seq ++ byte (if h.offered.isSome then 2 else 1)
          ++ byte (h.offered.elim 0 (·.1.toNat)) ++ momentBytes (h.offered.map (·.2)) ++ flag h.setAside))
      ∧ (∀ r, s.cp.records.at? i = some r → s.shows 6 (i + 1) (quad r.serial.toNat ++ byte r.capClass ++ byte r.e
          ++ word r.wear ++ byte r.state.code ++ byte (r.socket.elim 0 (·.val)) ++ byte (r.link.getD 0)
          ++ bytesLE 3 (r.tag.elim 0 tagCode) ++ quad r.stamp))
      ∧ (∀ e, s.shu.shelf.at? i = some e → s.shows 7 i (byte 1 ++ bytesLE 3 e.title.toNat ++ byte e.perCopy
          ++ byte e.owned ++ byte e.onShelf ++ byte e.reserved ++ flag e.mark))
      ∧ (∀ l, s.lu.loans.at? i = some l → s.shows 8 (i + 1) (bytesLE 3 (tagCode l.tag) ++ quad l.order.toNat
          ++ quad l.patron.toNat ++ word l.zone
          ++ (match l.body with
            | .cartridge serials => byte 0 ++ byte 0
              ++ zeroTo 17 (byte serials.length ++ serials.flatMap (fun (c : CartSerial) => quad c.toNat))
            | .braille item title set part parts first last perCopy => byte item ++ byte 1
              ++ zeroTo 17 (bytesLE 3 title.toNat ++ bytesLE 3 (tagCode set) ++ byte part ++ byte parts ++ byte first
                ++ byte last ++ byte perCopy))
          ++ word l.carded ++ word l.due ++ byte l.state.code))
      ∧ (∀ e, s.isc.directory.at? i = some e → s.shows 9 (i + 1) (bytesLE 3 e.name.title.toNat
          ++ byte e.name.version.toNat ++ word e.size ++ word (e.head.getD 0) ++ byte e.state.code
          ++ word (pinCount s e.name) ++ quad e.useStamp ++ word e.complete ++ byte (e.source.elim 0 (·.toNat))
          ++ byte e.fails))
      ∧ (∀ c, s.isc.chains.at? i = some c → s.shows 10 i (word (c.owner + 1) ++ word (c.next.elim 0 (· + 1))))
      ∧ (∀ e, s.de.sockets.at? i = some e → s.shows 11 i (byte e.state.code ++ zeroTo 11 (e.header.elim [] headerBytes)
          ++ (match e.op with
            | none => [0, 0, 0, 0]
            | some .headerWrite | some .directoryWrite => [1, 0, 0, 0]
            | some (.sectorWrite p j) => byte 1 ++ byte p ++ word j
            | some .verifyDirectory => [2, 0, 0, 0]
            | some (.verifySector p j) => byte 2 ++ byte p ++ word j
            | some (.erase _ g) => byte 3 ++ byte 0 ++ word g
            | some (.eraseHeader _) => [3, 0, 0, 0])
          ++ byte e.attempt ++ momentBytes e.deadline))
      ∧ (∀ b, s.mlc.bins[i]? = some b → s.shows 12 (i + 1) (byte b.state.code ++ byte b.capacity ++ byte b.count
          ++ bytesLE 3 (b.first.elim 0 tagCode) ++ bytesLE 3 (b.last.elim 0 tagCode)))
      ∧ (∀ r, s.cfl.settings.rules[i]? = some r → s.shows 13 i (byte 1 ++ byte r.field.code ++ byte r.test.code
          ++ word r.lo ++ word r.hi ++ byte r.bin))
      ∧ ∀ m, ((List.range 64).filterMap (fun j => s.mlc.manifest.at? ((s.mlc.writePos + j) % 64)))[i]? = some m →
        s.shows 14 i (byte 1 ++ word m.sack ++ byte m.bin ++ byte m.count ++ bytesLE 3 (m.first.elim 0 tagCode)
          ++ bytesLE 3 (m.last.elim 0 tagCode) ++ word m.day ++ flag m.dayKnown))
    ∧ (([.ready, .blank, .assigned, .writing, .verifying, .written, .packed, .out, .returned, .dirty, .erasing, .missing,
          .faulted, .retired] : List CartState).map CartState.code = List.range' 1 14
      ∧ ([.planned, .held, .failed, .mailed, .cancelled] : List ItemState).map ItemState.code = List.range' 1 5
      ∧ ([.arriving, .present, .damaged] : List ImageState).map ImageState.code = List.range' 1 3
      ∧ ([.identifying, .holding, .busy, .refused] : List SocketState).map SocketState.code = List.range' 2 4
      ∧ ([.carded, .out, .overdue, .inTransfer] : List LoanState).map LoanState.code = List.range' 1 4
      ∧ ([.bidding, .awaitingTake] : List AuctionState).map AuctionState.code = [1, 2]
      ∧ ([.unassigned, .linked, .written] : List Condition).map Condition.code = List.range' 1 3
      ∧ ([.waiting, .producing, .written, .packing, .laned, .mailed] : List BundleState).map BundleState.code
        = List.range' 1 6
      ∧ ([.joining, .active, .muted] : List TxState).map TxState.code = List.range' 1 3
      ∧ ([.intake, .transfer, .manual] : List Route).map Route.code = List.range' 1 3
      ∧ ([.held, .queued, .sent] : List OwnBid).map OwnBid.code = List.range' 1 3
      ∧ ([.none, .cancelled, .abandoned] : List EndMark).map EndMark.code = List.range' 0 3
      ∧ ([.open, .full, .disabled] : List BinState).map BinState.code = List.range' 1 3
      ∧ ([.writing, .done, .fault] : List CardState).map CardState.code = List.range' 1 3)
    ∧ (∀ s : State, pint s = !s.pp.events.isEmpty
      ∧ panelRead s 1 = s.pp.command ∧ panelRead s 2 = s.pp.arg0 ∧ panelRead s 3 = s.pp.arg1
      ∧ panelRead s 4 = s.pp.arg2 ∧ panelRead s 5 = s.pp.arg3 ∧ panelRead s 6 = s.pp.pointer.table
      ∧ panelRead s 7 = s.pp.prefetch
      ∧ (panelRead s 0).getLsbD 0 = !s.pp.events.isEmpty ∧ (panelRead s 0).getLsbD 1 = s.pp.eventsLost
      ∧ (panelRead s 0).getLsbD 2 = decide (s.pp.slot ≠ .idle)
      ∧ (panelRead s 0).getLsbD 3 = decide (s.pp.outcome = .accepted)
      ∧ (panelRead s 0).getLsbD 4 = decide (s.pp.outcome = .refused)
      ∧ (panelRead s 0).getLsbD 5 = s.pp.refusedWrite ∧ (panelRead s 0).getLsbD 6 = s.pp.pause
      ∧ (panelRead s 0).getLsbD 7 = decide (s.fli.txState = .muted))
    ∧ ∀ (e : Event) (s : State), (s.pp.events.length < 32 →
        (raise e s).pp = { s.pp with events := s.pp.events ++ [e] })
      ∧ (32 ≤ s.pp.events.length →
        (raise e s).pp = { s.pp with drops := min 255 (s.pp.drops + 1), eventsLost := true })

/-- R190 to R192, R199, R202: while the slot is Idle and the start is over, a write of the command location takes the
command that its low four bits name, its high four being the small argument: the slot stands Executing with the byte and
the argument bytes of that moment, the outcome is None and the refused-write flag clear; a code that names no command
ends at once, refused. While the slot is not Idle, or before phase 4 of a start has ended, any such write is ignored:
the byte is kept and the refused-write flag set. A REFUSED_WRITE is the write of its byte. When the block of a command
acts is open: the act is an event of its row, and out of place while the slot is not Executing that command (logs 6 and
14). The acts of Pause and Resume are accepted and set and clear the pause flag, Pause discarding what SHU holds of
AVAILABLE (log 28), Resume announcing the marked titles. -/
def Obligations.CommandsAreTakenOrRefused : Prop :=
  (∀ (t : Moment) (high : BitVec 4) (s : State) (named : List (BitVec 4 × (CommandEvent → Instr)))
    (unnamed writes : List (BitVec 4 × Instr)),
    named = [(1#4, .pause t), (2#4, .resume t), (3#4, .pickDone t), (4#4, .shelfAdd t), (5#4, .shelfWithdraw t),
      (6#4, .sackChanged t), (7#4, .sackClose t), (8#4, .cardRewrite t), (9#4, .containerWithdraw t),
      (10#4, .returnKeyed t)] →
    unnamed = [(0#4, .commandCodeUnknown t .c0 high), (11#4, .commandCodeUnknown t .c11 high),
      (12#4, .commandCodeUnknown t .c12 high), (13#4, .commandCodeUnknown t .c13 high),
      (14#4, .commandCodeUnknown t .c14 high), (15#4, .commandCodeUnknown t .c15 high)] →
    writes = named.map (fun c => (c.1, c.2 (.write high))) ++ unnamed →
    (s.cfl.phase = .running → s.pp.slot = .idle →
      (∀ c ∈ named, exec (c.2 (.write high)) s = .next { s.at t with pp := { s.pp with
        command := high ++ c.1, refusedWrite := false, outcome := .none
        slot := .executing { byte := high ++ c.1, arg0 := s.pp.arg0, arg1 := s.pp.arg1, arg2 := s.pp.arg2
                             arg3 := s.pp.arg3 } } })
      ∧ ∀ c ∈ unnamed, exec c.2 s = .next { s.at t with pp := { s.pp with
        command := high ++ c.1, refusedWrite := false, outcome := .refused, slot := .idle } })
    ∧ (s.cfl.phase = .blocks ∨ s.pp.slot ≠ .idle →
      ∀ c ∈ writes, exec c.2 s = .next { s.at t with pp := { s.pp with command := high ++ c.1, refusedWrite := true } })
    ∧ (∀ c ∈ writes, exec (.refusedWrite t (high ++ c.1)) s = exec c.2 s)
    ∧ ∀ c ∈ named, (∀ w, s.pp.slot = .executing w → w.byte.toNat % 16 ≠ c.1.toNat) →
      exec (c.2 .act) s = .next (s.at t))
    ∧ (∀ (t : Moment) (b : Byte) (s : State), s.cfl.phase = .blocks ∨ s.pp.slot ≠ .idle →
      exec (.refusedWrite t b) s = .next { s.at t with pp := { s.pp with command := b, refusedWrite := true } })
    ∧ ∀ (t : Moment) (high : BitVec 4) (w : TakenCommand) (s : State), s.pp.slot = .executing w →
      (w.byte = high ++ 1#4 → exec (.pause t .act) s = .next { s.at t with
        pp := { s.pp with outcome := .accepted, slot := .idle, pause := true }
        shu := { s.shu with held := s.shu.held.filter (fun f => f.kind != .available) } })
      ∧ (w.byte = high ++ 2#4 → exec (.resume t .act) s
        = .next (endCommand .accepted (announce { s.at t with pp := { s.pp with pause := false } })))
end

