-- ==== Sys2Proof/Laws/State.lean ====
section
/-! SUPPORT. The small lemmas about the state: what a fold, a choice or the setting of a queue leaves unchanged, one
for each block and for the parts of a block that frames speak of; and the clock. -/

namespace Sys2Proof.Machine

@[simp] theorem State.at_clock (s : State) (t : Moment) : (s.at t).clock = max s.clock t := rfl

theorem State.at_eq (s : State) (t : Moment) : s.at t = { s with clock := max s.clock t } := rfl

@[simp] theorem Fli.butQueue_set (f : Fli) (q : List Frame) : Fli.butQueue { f with queue := q } = f.butQueue := rfl
@[simp] theorem Pp.butEvents_set (p : Pp) (e : List Event) (d : Nat) (l : Bool) :
    Pp.butEvents { p with events := e, drops := d, eventsLost := l } = p.butEvents := rfl
@[simp] theorem Pp.butEvents_set2 (p : Pp) (e : List Event) :
    Pp.butEvents { p with events := e } = p.butEvents := rfl
@[simp] theorem Pp.butEvents_set3 (p : Pp) (d : Nat) (l : Bool) :
    Pp.butEvents { p with drops := d, eventsLost := l } = p.butEvents := rfl

theorem foldl_same {α β : Type} (p : State → β) (f : State → α → State) (h : ∀ s x, p (f s x) = p s) :
    ∀ (l : List α) (s : State), p (l.foldl f s) = p s
  | [], _ => rfl
  | a :: l, s => (foldl_same p f h l (f s a)).trans (h s a)

@[simp] theorem foldl_clock {α : Type} (f : State → α → State) (l : List α) (s : State) (h : ∀ s x, (f s x).clock = s.clock) :
    (l.foldl f s).clock = s.clock := foldl_same (fun s => s.clock) f h l s

@[simp] theorem foldl_raceCount {α : Type} (f : State → α → State) (l : List α) (s : State) (h : ∀ s x, (f s x).raceCount = s.raceCount) :
    (l.foldl f s).raceCount = s.raceCount := foldl_same (fun s => s.raceCount) f h l s

@[simp] theorem foldl_pending {α : Type} (f : State → α → State) (l : List α) (s : State) (h : ∀ s x, (f s x).pending = s.pending) :
    (l.foldl f s).pending = s.pending := foldl_same (fun s => s.pending) f h l s

@[simp] theorem foldl_cfl {α : Type} (f : State → α → State) (l : List α) (s : State) (h : ∀ s x, (f s x).cfl = s.cfl) :
    (l.foldl f s).cfl = s.cfl := foldl_same (fun s => s.cfl) f h l s

@[simp] theorem foldl_fli {α : Type} (f : State → α → State) (l : List α) (s : State) (h : ∀ s x, (f s x).fli = s.fli) :
    (l.foldl f s).fli = s.fli := foldl_same (fun s => s.fli) f h l s

@[simp] theorem foldl_fliX {α : Type} (f : State → α → State) (l : List α) (s : State) (h : ∀ s x, (f s x).fli.butQueue = s.fli.butQueue) :
    (l.foldl f s).fli.butQueue = s.fli.butQueue := foldl_same (fun s => s.fli.butQueue) f h l s

@[simp] theorem foldl_au {α : Type} (f : State → α → State) (l : List α) (s : State) (h : ∀ s x, (f s x).au = s.au) :
    (l.foldl f s).au = s.au := foldl_same (fun s => s.au) f h l s

@[simp] theorem foldl_auE {α : Type} (f : State → α → State) (l : List α) (s : State) (h : ∀ s x, (f s x).au.entries = s.au.entries) :
    (l.foldl f s).au.entries = s.au.entries := foldl_same (fun s => s.au.entries) f h l s

@[simp] theorem foldl_wq {α : Type} (f : State → α → State) (l : List α) (s : State) (h : ∀ s x, (f s x).wq = s.wq) :
    (l.foldl f s).wq = s.wq := foldl_same (fun s => s.wq) f h l s

@[simp] theorem foldl_isc {α : Type} (f : State → α → State) (l : List α) (s : State) (h : ∀ s x, (f s x).isc = s.isc) :
    (l.foldl f s).isc = s.isc := foldl_same (fun s => s.isc) f h l s

@[simp] theorem foldl_store {α : Type} (f : State → α → State) (l : List α) (s : State) (h : ∀ s x, (f s x).isc.store = s.isc.store) :
    (l.foldl f s).isc.store = s.isc.store := foldl_same (fun s => s.isc.store) f h l s

@[simp] theorem foldl_crc {α : Type} (f : State → α → State) (l : List α) (s : State) (h : ∀ s x, (f s x).isc.crcArea = s.isc.crcArea) :
    (l.foldl f s).isc.crcArea = s.isc.crcArea := foldl_same (fun s => s.isc.crcArea) f h l s

@[simp] theorem foldl_de {α : Type} (f : State → α → State) (l : List α) (s : State) (h : ∀ s x, (f s x).de = s.de) :
    (l.foldl f s).de = s.de := foldl_same (fun s => s.de) f h l s

@[simp] theorem foldl_cp {α : Type} (f : State → α → State) (l : List α) (s : State) (h : ∀ s x, (f s x).cp = s.cp) :
    (l.foldl f s).cp = s.cp := foldl_same (fun s => s.cp) f h l s

@[simp] theorem foldl_shu {α : Type} (f : State → α → State) (l : List α) (s : State) (h : ∀ s x, (f s x).shu = s.shu) :
    (l.foldl f s).shu = s.shu := foldl_same (fun s => s.shu) f h l s

@[simp] theorem foldl_lu {α : Type} (f : State → α → State) (l : List α) (s : State) (h : ∀ s x, (f s x).lu = s.lu) :
    (l.foldl f s).lu = s.lu := foldl_same (fun s => s.lu) f h l s

@[simp] theorem foldl_mlc {α : Type} (f : State → α → State) (l : List α) (s : State) (h : ∀ s x, (f s x).mlc = s.mlc) :
    (l.foldl f s).mlc = s.mlc := foldl_same (fun s => s.mlc) f h l s

@[simp] theorem foldl_rti {α : Type} (f : State → α → State) (l : List α) (s : State) (h : ∀ s x, (f s x).rti = s.rti) :
    (l.foldl f s).rti = s.rti := foldl_same (fun s => s.rti) f h l s

@[simp] theorem foldl_pp {α : Type} (f : State → α → State) (l : List α) (s : State) (h : ∀ s x, (f s x).pp = s.pp) :
    (l.foldl f s).pp = s.pp := foldl_same (fun s => s.pp) f h l s

@[simp] theorem foldl_ppX {α : Type} (f : State → α → State) (l : List α) (s : State) (h : ∀ s x, (f s x).pp.butEvents = s.pp.butEvents) :
    (l.foldl f s).pp.butEvents = s.pp.butEvents := foldl_same (fun s => s.pp.butEvents) f h l s

@[simp] theorem foldl_wqR {α : Type} (f : State → α → State) (l : List α) (s : State) (h : ∀ s x, (f s x).wq.records = s.wq.records) :
    (l.foldl f s).wq.records = s.wq.records := foldl_same (fun s => s.wq.records) f h l s

@[simp] theorem foldl_wqP {α : Type} (f : State → α → State) (l : List α) (s : State) (h : ∀ s x, (f s x).wq.plan = s.wq.plan) :
    (l.foldl f s).wq.plan = s.wq.plan := foldl_same (fun s => s.wq.plan) f h l s

@[simp] theorem foldl_dir {α : Type} (f : State → α → State) (l : List α) (s : State) (h : ∀ s x, (f s x).isc.directory = s.isc.directory) :
    (l.foldl f s).isc.directory = s.isc.directory := foldl_same (fun s => s.isc.directory) f h l s

@[simp] theorem foldl_holds {α : Type} (f : State → α → State) (l : List α) (s : State) (h : ∀ s x, (f s x).shu.holds = s.shu.holds) :
    (l.foldl f s).shu.holds = s.shu.holds := foldl_same (fun s => s.shu.holds) f h l s

@[simp] theorem foldl_loans {α : Type} (f : State → α → State) (l : List α) (s : State) (h : ∀ s x, (f s x).lu.loans = s.lu.loans) :
    (l.foldl f s).lu.loans = s.lu.loans := foldl_same (fun s => s.lu.loans) f h l s

@[simp] theorem foldl_day {α : Type} (f : State → α → State) (l : List α) (s : State) (h : ∀ s x, (f s x).lu.day = s.lu.day) :
    (l.foldl f s).lu.day = s.lu.day := foldl_same (fun s => s.lu.day) f h l s

@[simp] theorem ite_au (c : Prop) [Decidable c] (a b : State) :
    (if c then a else b).au = if c then a.au else b.au := by split <;> rfl

@[simp] theorem ite_au_entries (c : Prop) [Decidable c] (a b : State) :
    (if c then a else b).au.entries = if c then a.au.entries else b.au.entries := by split <;> rfl

@[simp] theorem ite_cfl (c : Prop) [Decidable c] (a b : State) :
    (if c then a else b).cfl = if c then a.cfl else b.cfl := by split <;> rfl

@[simp] theorem ite_clock (c : Prop) [Decidable c] (a b : State) :
    (if c then a else b).clock = if c then a.clock else b.clock := by split <;> rfl

@[simp] theorem ite_cp (c : Prop) [Decidable c] (a b : State) :
    (if c then a else b).cp = if c then a.cp else b.cp := by split <;> rfl

@[simp] theorem ite_de (c : Prop) [Decidable c] (a b : State) :
    (if c then a else b).de = if c then a.de else b.de := by split <;> rfl

@[simp] theorem ite_fli (c : Prop) [Decidable c] (a b : State) :
    (if c then a else b).fli = if c then a.fli else b.fli := by split <;> rfl

@[simp] theorem ite_fli_butQueue (c : Prop) [Decidable c] (a b : State) :
    (if c then a else b).fli.butQueue = if c then a.fli.butQueue else b.fli.butQueue := by split <;> rfl

@[simp] theorem ite_isc (c : Prop) [Decidable c] (a b : State) :
    (if c then a else b).isc = if c then a.isc else b.isc := by split <;> rfl

@[simp] theorem ite_isc_crcArea (c : Prop) [Decidable c] (a b : State) :
    (if c then a else b).isc.crcArea = if c then a.isc.crcArea else b.isc.crcArea := by split <;> rfl

@[simp] theorem ite_isc_directory (c : Prop) [Decidable c] (a b : State) :
    (if c then a else b).isc.directory = if c then a.isc.directory else b.isc.directory := by split <;> rfl

@[simp] theorem ite_isc_store (c : Prop) [Decidable c] (a b : State) :
    (if c then a else b).isc.store = if c then a.isc.store else b.isc.store := by split <;> rfl

@[simp] theorem ite_lu (c : Prop) [Decidable c] (a b : State) :
    (if c then a else b).lu = if c then a.lu else b.lu := by split <;> rfl

@[simp] theorem ite_lu_day (c : Prop) [Decidable c] (a b : State) :
    (if c then a else b).lu.day = if c then a.lu.day else b.lu.day := by split <;> rfl

@[simp] theorem ite_lu_loans (c : Prop) [Decidable c] (a b : State) :
    (if c then a else b).lu.loans = if c then a.lu.loans else b.lu.loans := by split <;> rfl

@[simp] theorem ite_mlc (c : Prop) [Decidable c] (a b : State) :
    (if c then a else b).mlc = if c then a.mlc else b.mlc := by split <;> rfl

@[simp] theorem ite_pending (c : Prop) [Decidable c] (a b : State) :
    (if c then a else b).pending = if c then a.pending else b.pending := by split <;> rfl

@[simp] theorem ite_pp (c : Prop) [Decidable c] (a b : State) :
    (if c then a else b).pp = if c then a.pp else b.pp := by split <;> rfl

@[simp] theorem ite_pp_butEvents (c : Prop) [Decidable c] (a b : State) :
    (if c then a else b).pp.butEvents = if c then a.pp.butEvents else b.pp.butEvents := by split <;> rfl

@[simp] theorem ite_raceCount (c : Prop) [Decidable c] (a b : State) :
    (if c then a else b).raceCount = if c then a.raceCount else b.raceCount := by split <;> rfl

@[simp] theorem ite_rti (c : Prop) [Decidable c] (a b : State) :
    (if c then a else b).rti = if c then a.rti else b.rti := by split <;> rfl

@[simp] theorem ite_shu (c : Prop) [Decidable c] (a b : State) :
    (if c then a else b).shu = if c then a.shu else b.shu := by split <;> rfl

@[simp] theorem ite_shu_holds (c : Prop) [Decidable c] (a b : State) :
    (if c then a else b).shu.holds = if c then a.shu.holds else b.shu.holds := by split <;> rfl

@[simp] theorem ite_wq (c : Prop) [Decidable c] (a b : State) :
    (if c then a else b).wq = if c then a.wq else b.wq := by split <;> rfl

@[simp] theorem ite_wq_plan (c : Prop) [Decidable c] (a b : State) :
    (if c then a else b).wq.plan = if c then a.wq.plan else b.wq.plan := by split <;> rfl

@[simp] theorem ite_wq_records (c : Prop) [Decidable c] (a b : State) :
    (if c then a else b).wq.records = if c then a.wq.records else b.wq.records := by split <;> rfl

@[simp] theorem Fli.ite_butQueue (c : Prop) [Decidable c] (a b : Fli) :
    (if c then a else b).butQueue = if c then a.butQueue else b.butQueue := by split <;> rfl

@[simp] theorem Fli.ite_queue (c : Prop) [Decidable c] (a b : Fli) :
    (if c then a else b).queue = if c then a.queue else b.queue := by split <;> rfl

@[simp] theorem Fli.ite_lineOut (c : Prop) [Decidable c] (a b : Fli) :
    (if c then a else b).lineOut = if c then a.lineOut else b.lineOut := by split <;> rfl

@[simp] theorem Fli.ite_sending (c : Prop) [Decidable c] (a b : Fli) :
    (if c then a else b).sending = if c then a.sending else b.sending := by split <;> rfl

@[simp] theorem Fli.ite_txState (c : Prop) [Decidable c] (a b : Fli) :
    (if c then a else b).txState = if c then a.txState else b.txState := by split <;> rfl

@[simp] theorem Fli.ite_collisions (c : Prop) [Decidable c] (a b : Fli) :
    (if c then a else b).collisions = if c then a.collisions else b.collisions := by split <;> rfl

@[simp] theorem Isc.ite_store (c : Prop) [Decidable c] (a b : Isc) :
    (if c then a else b).store = if c then a.store else b.store := by split <;> rfl

@[simp] theorem Isc.ite_crcArea (c : Prop) [Decidable c] (a b : Isc) :
    (if c then a else b).crcArea = if c then a.crcArea else b.crcArea := by split <;> rfl

@[simp] theorem Isc.ite_directory (c : Prop) [Decidable c] (a b : Isc) :
    (if c then a else b).directory = if c then a.directory else b.directory := by split <;> rfl

@[simp] theorem Pp.ite_butEvents (c : Prop) [Decidable c] (a b : Pp) :
    (if c then a else b).butEvents = if c then a.butEvents else b.butEvents := by split <;> rfl

@[simp] theorem Cfl.ite_settings (c : Prop) [Decidable c] (a b : Cfl) :
    (if c then a else b).settings = if c then a.settings else b.settings := by split <;> rfl

@[simp] theorem Cfl.ite_station (c : Prop) [Decidable c] (a b : Cfl) :
    (if c then a else b).station = if c then a.station else b.station := by split <;> rfl

@[simp] theorem Cfl.ite_marker (c : Prop) [Decidable c] (a b : Cfl) :
    (if c then a else b).marker = if c then a.marker else b.marker := by split <;> rfl

@[simp] theorem Cfl.ite_source (c : Prop) [Decidable c] (a b : Cfl) :
    (if c then a else b).source = if c then a.source else b.source := by split <;> rfl

@[simp] theorem Cfl.ite_loadSum (c : Prop) [Decidable c] (a b : Cfl) :
    (if c then a else b).loadSum = if c then a.loadSum else b.loadSum := by split <;> rfl

@[simp] theorem Lu.ite_day (c : Prop) [Decidable c] (a b : Lu) :
    (if c then a else b).day = if c then a.day else b.day := by split <;> rfl

@[simp] theorem Lu.ite_dayKnown (c : Prop) [Decidable c] (a b : Lu) :
    (if c then a else b).dayKnown = if c then a.dayKnown else b.dayKnown := by split <;> rfl

@[simp] theorem Lu.ite_loans (c : Prop) [Decidable c] (a b : Lu) :
    (if c then a else b).loans = if c then a.loans else b.loans := by split <;> rfl

@[simp] theorem Shu.ite_holds (c : Prop) [Decidable c] (a b : Shu) :
    (if c then a else b).holds = if c then a.holds else b.holds := by split <;> rfl

@[simp] theorem Wq.ite_records (c : Prop) [Decidable c] (a b : Wq) :
    (if c then a else b).records = if c then a.records else b.records := by split <;> rfl

@[simp] theorem Wq.ite_plan (c : Prop) [Decidable c] (a b : Wq) :
    (if c then a else b).plan = if c then a.plan else b.plan := by split <;> rfl

@[simp] theorem Au.ite_entries (c : Prop) [Decidable c] (a b : Au) :
    (if c then a else b).entries = if c then a.entries else b.entries := by split <;> rfl

end Sys2Proof.Machine
end

