-- ==== Sys2Proof/Laws/Frames.lean ====
section
/-! SUPPORT. The frame of every shared operation: the blocks of the state that it leaves unchanged. A block that a
lemma does not name may change. -/

namespace Sys2Proof.Machine

@[simp] theorem State.at_frame (s : State) (t : Moment) :
    (State.at s t).raceCount = s.raceCount
      ∧ (State.at s t).pending = s.pending
      ∧ (State.at s t).cfl = s.cfl
      ∧ (State.at s t).fli = s.fli
      ∧ (State.at s t).au = s.au
      ∧ (State.at s t).wq = s.wq
      ∧ (State.at s t).isc = s.isc
      ∧ (State.at s t).de = s.de
      ∧ (State.at s t).cp = s.cp
      ∧ (State.at s t).shu = s.shu
      ∧ (State.at s t).lu = s.lu
      ∧ (State.at s t).mlc = s.mlc
      ∧ (State.at s t).rti = s.rti
      ∧ (State.at s t).pp = s.pp := by
  unfold State.at
  simp

@[simp] theorem raise_frame (e : Event) (s : State) :
    (raise e s).clock = s.clock
      ∧ (raise e s).raceCount = s.raceCount
      ∧ (raise e s).pending = s.pending
      ∧ (raise e s).cfl = s.cfl
      ∧ (raise e s).fli = s.fli
      ∧ (raise e s).au = s.au
      ∧ (raise e s).wq = s.wq
      ∧ (raise e s).isc = s.isc
      ∧ (raise e s).de = s.de
      ∧ (raise e s).cp = s.cp
      ∧ (raise e s).shu = s.shu
      ∧ (raise e s).lu = s.lu
      ∧ (raise e s).mlc = s.mlc
      ∧ (raise e s).rti = s.rti
      ∧ (raise e s).pp.butEvents = s.pp.butEvents := by
  unfold raise
  simp

@[simp] theorem popEvent_frame (s : State) :
    (popEvent s).clock = s.clock
      ∧ (popEvent s).raceCount = s.raceCount
      ∧ (popEvent s).pending = s.pending
      ∧ (popEvent s).cfl = s.cfl
      ∧ (popEvent s).fli = s.fli
      ∧ (popEvent s).au = s.au
      ∧ (popEvent s).wq = s.wq
      ∧ (popEvent s).isc = s.isc
      ∧ (popEvent s).de = s.de
      ∧ (popEvent s).cp = s.cp
      ∧ (popEvent s).shu = s.shu
      ∧ (popEvent s).lu = s.lu
      ∧ (popEvent s).mlc = s.mlc
      ∧ (popEvent s).rti = s.rti
      ∧ (popEvent s).pp.butEvents = s.pp.butEvents := by
  unfold popEvent
  simp

@[simp] theorem setHeld_frame (b : Producer) (fs : List Frame) (s : State) :
    (setHeld b fs s).clock = s.clock ∧ (setHeld b fs s).raceCount = s.raceCount ∧ (setHeld b fs s).pending = s.pending
      ∧ (setHeld b fs s).cfl = s.cfl ∧ (setHeld b fs s).fli = s.fli ∧ (setHeld b fs s).au.entries = s.au.entries
      ∧ (setHeld b fs s).wq.records = s.wq.records ∧ (setHeld b fs s).wq.plan = s.wq.plan
      ∧ (setHeld b fs s).isc.store = s.isc.store ∧ (setHeld b fs s).isc.crcArea = s.isc.crcArea
      ∧ (setHeld b fs s).isc.directory = s.isc.directory ∧ (setHeld b fs s).de = s.de ∧ (setHeld b fs s).cp = s.cp
      ∧ (setHeld b fs s).shu.holds = s.shu.holds ∧ (setHeld b fs s).lu.loans = s.lu.loans
      ∧ (setHeld b fs s).lu.day = s.lu.day ∧ (setHeld b fs s).mlc = s.mlc ∧ (setHeld b fs s).pp = s.pp := by
  cases b <;> simp [setHeld]

@[simp] theorem setHeld_au (b : Producer) (fs : List Frame) (s : State) (h : b ≠ .au) : (setHeld b fs s).au = s.au := by
  cases b <;> simp_all [setHeld]

@[simp] theorem setHeld_wq (b : Producer) (fs : List Frame) (s : State) (h : b ≠ .wq) : (setHeld b fs s).wq = s.wq := by
  cases b <;> simp_all [setHeld]

@[simp] theorem setHeld_isc (b : Producer) (fs : List Frame) (s : State) (h : b ≠ .isc) :
    (setHeld b fs s).isc = s.isc := by
  cases b <;> simp_all [setHeld]

@[simp] theorem setHeld_shu (b : Producer) (fs : List Frame) (s : State) (h : b ≠ .shu) :
    (setHeld b fs s).shu = s.shu := by
  cases b <;> simp_all [setHeld]

@[simp] theorem setHeld_lu (b : Producer) (fs : List Frame) (s : State) (h : b ≠ .lu) : (setHeld b fs s).lu = s.lu := by
  cases b <;> simp_all [setHeld]

@[simp] theorem setHeld_rti (b : Producer) (fs : List Frame) (s : State) (h : b ≠ .rti) :
    (setHeld b fs s).rti = s.rti := by
  cases b <;> simp_all [setHeld]

theorem tryOffer_cases {f : Frame} {s s' : State} (h : tryOffer f s = some s') :
    s' = s ∨ s' = { s with fli := { s.fli with queue := s.fli.queue ++ [f] } } := by
  unfold tryOffer at h
  repeat' split at h
  all_goals simp_all

@[simp] theorem changeAuction_frame (order : OrderSerial) (f : AuctionEntry → AuctionEntry) (s : State) :
    (changeAuction order f s).clock = s.clock
      ∧ (changeAuction order f s).raceCount = s.raceCount
      ∧ (changeAuction order f s).pending = s.pending
      ∧ (changeAuction order f s).cfl = s.cfl
      ∧ (changeAuction order f s).fli = s.fli
      ∧ (changeAuction order f s).wq = s.wq
      ∧ (changeAuction order f s).isc = s.isc
      ∧ (changeAuction order f s).de = s.de
      ∧ (changeAuction order f s).cp = s.cp
      ∧ (changeAuction order f s).shu = s.shu
      ∧ (changeAuction order f s).lu = s.lu
      ∧ (changeAuction order f s).mlc = s.mlc
      ∧ (changeAuction order f s).rti = s.rti
      ∧ (changeAuction order f s).pp = s.pp := by
  unfold changeAuction
  simp

@[simp] theorem changeShelf_frame (title : Title) (f : ShelfEntry → ShelfEntry) (s : State) :
    (changeShelf title f s).clock = s.clock
      ∧ (changeShelf title f s).raceCount = s.raceCount
      ∧ (changeShelf title f s).pending = s.pending
      ∧ (changeShelf title f s).cfl = s.cfl
      ∧ (changeShelf title f s).fli = s.fli
      ∧ (changeShelf title f s).au = s.au
      ∧ (changeShelf title f s).wq = s.wq
      ∧ (changeShelf title f s).isc = s.isc
      ∧ (changeShelf title f s).de = s.de
      ∧ (changeShelf title f s).cp = s.cp
      ∧ (changeShelf title f s).shu.holds = s.shu.holds
      ∧ (changeShelf title f s).lu = s.lu
      ∧ (changeShelf title f s).mlc = s.mlc
      ∧ (changeShelf title f s).rti = s.rti
      ∧ (changeShelf title f s).pp = s.pp := by
  unfold changeShelf
  simp

@[simp] theorem noteAccepted_frame (f : Frame) (s : State) :
    (noteAccepted f s).clock = s.clock ∧ (noteAccepted f s).raceCount = s.raceCount
      ∧ (noteAccepted f s).pending = s.pending ∧ (noteAccepted f s).cfl = s.cfl ∧ (noteAccepted f s).fli = s.fli
      ∧ (noteAccepted f s).wq = s.wq ∧ (noteAccepted f s).isc = s.isc ∧ (noteAccepted f s).de = s.de
      ∧ (noteAccepted f s).cp = s.cp ∧ (noteAccepted f s).shu.holds = s.shu.holds ∧ (noteAccepted f s).lu = s.lu
      ∧ (noteAccepted f s).mlc = s.mlc ∧ (noteAccepted f s).rti = s.rti ∧ (noteAccepted f s).pp = s.pp := by
  unfold noteAccepted
  split <;> simp [changeAuction, changeShelf]

@[simp] theorem noteAccepted_au (f : Frame) (s : State) (h : f.kind ≠ .bid) : (noteAccepted f s).au = s.au := by
  unfold noteAccepted
  split <;> simp_all

@[simp] theorem noteAccepted_shu (f : Frame) (s : State) (h : f.kind ≠ .available) :
    (noteAccepted f s).shu = s.shu := by
  unfold noteAccepted
  split <;> simp_all

@[simp] theorem bidFrame_kind (o : OrderSerial) (c : Nat) (k : BitVec 4) (f : BidFlags) :
    (bidFrame o c k f).kind = .bid := by simp only [bidFrame]

@[simp] theorem takeFrame_kind (o : OrderSerial) (d c : Nat) (k : BitVec 4) : (takeFrame o d c k).kind = .take := by simp only [takeFrame]

@[simp] theorem closedFrame_kind (o : OrderSerial) (d : Nat) (x : Outcome) (ts : List LoanTag) :
    (closedFrame o d x ts).kind = .closed := by simp only [closedFrame]

@[simp] theorem returnFrame_kind (t : LoanTag) (cs : List CartSerial) (x : Bool) :
    (returnFrame t cs x).kind = .ret := by simp only [returnFrame]

@[simp] theorem availableFrame_kind (t : Title) (n : Nat) : (availableFrame t n).kind = .available := by simp only [availableFrame]

@[simp] theorem handoverFrame_kind (p : Station) (h : Hold) : (handoverFrame p h).kind = .handover := by simp only [handoverFrame]

@[simp] theorem refuseFrame_kind (p : Station) (o : OrderSerial) (i : Nat) : (refuseFrame p o i).kind = .refuse := by simp only [refuseFrame]

@[simp] theorem fetchFrame_kind (p : Station) (n : ImageName) (a b : Nat) : (fetchFrame p n a b).kind = .fetch := by simp only [fetchFrame]

@[simp] theorem infoFrame_kind (p : Station) (n : ImageName) (z : Nat) (st : InfoStatus) :
    (infoFrame p n z st).kind = .info := by simp only [infoFrame]

@[simp] theorem offerFrame_frame (b : Producer) (f : Frame) (s : State) :
    (offerFrame b f s).clock = s.clock ∧ (offerFrame b f s).raceCount = s.raceCount
      ∧ (offerFrame b f s).pending = s.pending ∧ (offerFrame b f s).cfl = s.cfl
      ∧ (offerFrame b f s).fli.butQueue = s.fli.butQueue
      ∧ (offerFrame b f s).wq.records = s.wq.records ∧ (offerFrame b f s).wq.plan = s.wq.plan
      ∧ (offerFrame b f s).isc.store = s.isc.store ∧ (offerFrame b f s).isc.crcArea = s.isc.crcArea
      ∧ (offerFrame b f s).isc.directory = s.isc.directory ∧ (offerFrame b f s).de = s.de
      ∧ (offerFrame b f s).cp = s.cp ∧ (offerFrame b f s).shu.holds = s.shu.holds
      ∧ (offerFrame b f s).lu.loans = s.lu.loans ∧ (offerFrame b f s).lu.day = s.lu.day
      ∧ (offerFrame b f s).mlc = s.mlc ∧ (offerFrame b f s).pp = s.pp := by
  unfold offerFrame
  split
  · rename_i s' h
    rcases tryOffer_cases h with h | h <;> simp [h]
  · simp

@[simp] theorem offerFrame_au (b : Producer) (f : Frame) (s : State) (hb : b ≠ .au) (h : f.kind ≠ .bid) :
    (offerFrame b f s).au = s.au := by
  unfold offerFrame
  split
  · rename_i s' e
    rcases tryOffer_cases e with e | e <;> simp [e, h]
  · simp [hb]

@[simp] theorem offerFrame_entries (b : Producer) (f : Frame) (s : State) (h : f.kind ≠ .bid) :
    (offerFrame b f s).au.entries = s.au.entries := by
  unfold offerFrame
  split
  · rename_i s' e
    rcases tryOffer_cases e with e | e <;> simp [e, h]
  · simp

@[simp] theorem offerFrame_wq (b : Producer) (f : Frame) (s : State) (hb : b ≠ .wq) : (offerFrame b f s).wq = s.wq := by
  unfold offerFrame
  split
  · rename_i s' e
    rcases tryOffer_cases e with e | e <;> simp [e]
  · simp [hb]

@[simp] theorem offerFrame_isc (b : Producer) (f : Frame) (s : State) (hb : b ≠ .isc) :
    (offerFrame b f s).isc = s.isc := by
  unfold offerFrame
  split
  · rename_i s' e
    rcases tryOffer_cases e with e | e <;> simp [e]
  · simp [hb]

@[simp] theorem offerFrame_shu (b : Producer) (f : Frame) (s : State) (hb : b ≠ .shu) (h : f.kind ≠ .available) :
    (offerFrame b f s).shu = s.shu := by
  unfold offerFrame
  split
  · rename_i s' e
    rcases tryOffer_cases e with e | e <;> simp [e, h]
  · simp [hb]

@[simp] theorem offerFrame_lu (b : Producer) (f : Frame) (s : State) (hb : b ≠ .lu) : (offerFrame b f s).lu = s.lu := by
  unfold offerFrame
  split
  · rename_i s' e
    rcases tryOffer_cases e with e | e <;> simp [e]
  · simp [hb]

@[simp] theorem offerFrame_rti (b : Producer) (f : Frame) (s : State) (hb : b ≠ .rti) :
    (offerFrame b f s).rti = s.rti := by
  unfold offerFrame
  split
  · rename_i s' e
    rcases tryOffer_cases e with e | e <;> simp [e]
  · simp [hb]

@[simp] theorem announceEntry_frame (s : State) (title : Title) :
    (announceEntry s title).clock = s.clock
      ∧ (announceEntry s title).raceCount = s.raceCount
      ∧ (announceEntry s title).pending = s.pending
      ∧ (announceEntry s title).cfl = s.cfl
      ∧ (announceEntry s title).fli.butQueue = s.fli.butQueue
      ∧ (announceEntry s title).au = s.au
      ∧ (announceEntry s title).wq = s.wq
      ∧ (announceEntry s title).isc = s.isc
      ∧ (announceEntry s title).de = s.de
      ∧ (announceEntry s title).cp = s.cp
      ∧ (announceEntry s title).shu.holds = s.shu.holds
      ∧ (announceEntry s title).lu = s.lu
      ∧ (announceEntry s title).mlc = s.mlc
      ∧ (announceEntry s title).rti = s.rti
      ∧ (announceEntry s title).pp = s.pp := by
  unfold announceEntry
  split <;> simp

@[simp] theorem announce_frame (s : State) :
    (announce s).clock = s.clock
      ∧ (announce s).raceCount = s.raceCount
      ∧ (announce s).pending = s.pending
      ∧ (announce s).cfl = s.cfl
      ∧ (announce s).fli.butQueue = s.fli.butQueue
      ∧ (announce s).au = s.au
      ∧ (announce s).wq = s.wq
      ∧ (announce s).isc = s.isc
      ∧ (announce s).de = s.de
      ∧ (announce s).cp = s.cp
      ∧ (announce s).shu.holds = s.shu.holds
      ∧ (announce s).lu = s.lu
      ∧ (announce s).mlc = s.mlc
      ∧ (announce s).rti = s.rti
      ∧ (announce s).pp = s.pp := by
  unfold announce
  simp

@[simp] theorem announceAgain_frame (f : Frame) (rest : List Frame) (s : State) :
    (announceAgain f rest s).clock = s.clock ∧ (announceAgain f rest s).raceCount = s.raceCount ∧ (announceAgain f rest s).pending = s.pending
      ∧ (announceAgain f rest s).cfl = s.cfl ∧ (announceAgain f rest s).fli.butQueue = s.fli.butQueue
      ∧ (announceAgain f rest s).wq.records = s.wq.records ∧ (announceAgain f rest s).wq.plan = s.wq.plan
      ∧ (announceAgain f rest s).isc.store = s.isc.store ∧ (announceAgain f rest s).isc.crcArea = s.isc.crcArea
      ∧ (announceAgain f rest s).isc.directory = s.isc.directory ∧ (announceAgain f rest s).de = s.de
      ∧ (announceAgain f rest s).cp = s.cp ∧ (announceAgain f rest s).shu.holds = s.shu.holds
      ∧ (announceAgain f rest s).lu.loans = s.lu.loans ∧ (announceAgain f rest s).lu.day = s.lu.day
      ∧ (announceAgain f rest s).mlc = s.mlc ∧ (announceAgain f rest s).pp = s.pp := by
  unfold announceAgain
  dsimp only
  split
  · simp
  · split
    · simp
    · split
      · rename_i s' e
        rcases tryOffer_cases e with e | e <;> simp [e]
      · simp

@[simp] theorem releaseClosed_frame (order : OrderSerial) (s : State) :
    (releaseClosed order s).clock = s.clock
      ∧ (releaseClosed order s).raceCount = s.raceCount
      ∧ (releaseClosed order s).pending = s.pending
      ∧ (releaseClosed order s).cfl = s.cfl
      ∧ (releaseClosed order s).fli.butQueue = s.fli.butQueue
      ∧ (releaseClosed order s).wq.records = s.wq.records
      ∧ (releaseClosed order s).wq.plan = s.wq.plan
      ∧ (releaseClosed order s).isc.store = s.isc.store
      ∧ (releaseClosed order s).isc.crcArea = s.isc.crcArea
      ∧ (releaseClosed order s).isc.directory = s.isc.directory
      ∧ (releaseClosed order s).de = s.de
      ∧ (releaseClosed order s).cp = s.cp
      ∧ (releaseClosed order s).shu.holds = s.shu.holds
      ∧ (releaseClosed order s).lu.loans = s.lu.loans
      ∧ (releaseClosed order s).lu.day = s.lu.day
      ∧ (releaseClosed order s).mlc = s.mlc
      ∧ (releaseClosed order s).pp = s.pp := by
  unfold releaseClosed
  split
  · simp
  · simp

@[simp] theorem heldAccepted_frame (b : Producer) (f : Frame) (s : State) :
    (heldAccepted b f s).clock = s.clock
      ∧ (heldAccepted b f s).raceCount = s.raceCount
      ∧ (heldAccepted b f s).pending = s.pending
      ∧ (heldAccepted b f s).cfl = s.cfl
      ∧ (heldAccepted b f s).fli.butQueue = s.fli.butQueue
      ∧ (heldAccepted b f s).wq.records = s.wq.records
      ∧ (heldAccepted b f s).wq.plan = s.wq.plan
      ∧ (heldAccepted b f s).isc.store = s.isc.store
      ∧ (heldAccepted b f s).isc.crcArea = s.isc.crcArea
      ∧ (heldAccepted b f s).isc.directory = s.isc.directory
      ∧ (heldAccepted b f s).de = s.de
      ∧ (heldAccepted b f s).cp = s.cp
      ∧ (heldAccepted b f s).shu.holds = s.shu.holds
      ∧ (heldAccepted b f s).lu.loans = s.lu.loans
      ∧ (heldAccepted b f s).lu.day = s.lu.day
      ∧ (heldAccepted b f s).mlc = s.mlc
      ∧ (heldAccepted b f s).pp = s.pp := by
  unfold heldAccepted
  split <;> simp

@[simp] theorem offerAgain_frame (b : Producer) (s : State) :
    (offerAgain b s).clock = s.clock ∧ (offerAgain b s).raceCount = s.raceCount ∧ (offerAgain b s).pending = s.pending
      ∧ (offerAgain b s).cfl = s.cfl ∧ (offerAgain b s).fli.butQueue = s.fli.butQueue
      ∧ (offerAgain b s).wq.records = s.wq.records ∧ (offerAgain b s).wq.plan = s.wq.plan
      ∧ (offerAgain b s).isc.store = s.isc.store ∧ (offerAgain b s).isc.crcArea = s.isc.crcArea
      ∧ (offerAgain b s).isc.directory = s.isc.directory ∧ (offerAgain b s).de = s.de
      ∧ (offerAgain b s).cp = s.cp ∧ (offerAgain b s).shu.holds = s.shu.holds
      ∧ (offerAgain b s).lu.loans = s.lu.loans ∧ (offerAgain b s).lu.day = s.lu.day
      ∧ (offerAgain b s).mlc = s.mlc ∧ (offerAgain b s).pp = s.pp := by
  unfold offerAgain
  split
  · simp
  · split
    · simp
    · split
      · rename_i s' e
        rcases tryOffer_cases e with e | e <;> simp [e]
      · simp

@[simp] theorem tellHolders_frame (s : State) :
    (tellHolders s).clock = s.clock
      ∧ (tellHolders s).pending = s.pending
      ∧ (tellHolders s).cfl = s.cfl
      ∧ (tellHolders s).fli.butQueue = s.fli.butQueue
      ∧ (tellHolders s).wq.records = s.wq.records
      ∧ (tellHolders s).wq.plan = s.wq.plan
      ∧ (tellHolders s).isc.directory = s.isc.directory
      ∧ (tellHolders s).isc.store = s.isc.store
      ∧ (tellHolders s).isc.crcArea = s.isc.crcArea
      ∧ (tellHolders s).de = s.de
      ∧ (tellHolders s).cp = s.cp
      ∧ (tellHolders s).shu.holds = s.shu.holds
      ∧ (tellHolders s).lu.loans = s.lu.loans
      ∧ (tellHolders s).lu.day = s.lu.day
      ∧ (tellHolders s).mlc = s.mlc
      ∧ (tellHolders s).pp = s.pp := by
  unfold tellHolders
  split <;> simp

@[simp] theorem entryFreed_frame (s : State) :
    (entryFreed s).clock = s.clock
      ∧ (entryFreed s).pending = s.pending
      ∧ (entryFreed s).cfl = s.cfl
      ∧ (entryFreed s).fli.butQueue = s.fli.butQueue
      ∧ (entryFreed s).wq.records = s.wq.records
      ∧ (entryFreed s).wq.plan = s.wq.plan
      ∧ (entryFreed s).isc.directory = s.isc.directory
      ∧ (entryFreed s).isc.store = s.isc.store
      ∧ (entryFreed s).isc.crcArea = s.isc.crcArea
      ∧ (entryFreed s).de = s.de
      ∧ (entryFreed s).cp = s.cp
      ∧ (entryFreed s).shu.holds = s.shu.holds
      ∧ (entryFreed s).lu.loans = s.lu.loans
      ∧ (entryFreed s).lu.day = s.lu.day
      ∧ (entryFreed s).mlc = s.mlc
      ∧ (entryFreed s).pp = s.pp := by
  unfold entryFreed
  simp

@[simp] theorem entriesFreed_frame (n : Nat) (s : State) :
    (entriesFreed n s).clock = s.clock
      ∧ (entriesFreed n s).pending = s.pending
      ∧ (entriesFreed n s).cfl = s.cfl
      ∧ (entriesFreed n s).fli.butQueue = s.fli.butQueue
      ∧ (entriesFreed n s).wq.records = s.wq.records
      ∧ (entriesFreed n s).wq.plan = s.wq.plan
      ∧ (entriesFreed n s).isc.store = s.isc.store
      ∧ (entriesFreed n s).isc.crcArea = s.isc.crcArea
      ∧ (entriesFreed n s).isc.directory = s.isc.directory
      ∧ (entriesFreed n s).de = s.de
      ∧ (entriesFreed n s).cp = s.cp
      ∧ (entriesFreed n s).shu.holds = s.shu.holds
      ∧ (entriesFreed n s).lu.loans = s.lu.loans
      ∧ (entriesFreed n s).lu.day = s.lu.day
      ∧ (entriesFreed n s).mlc = s.mlc
      ∧ (entriesFreed n s).pp = s.pp := by
  induction n generalizing s with
  | zero => simp [entriesFreed]
  | succ n ih => simp [entriesFreed, ih]

@[simp] theorem withdrawQueued_frame (order : OrderSerial) (s : State) :
    (withdrawQueued order s).clock = s.clock
      ∧ (withdrawQueued order s).pending = s.pending
      ∧ (withdrawQueued order s).cfl = s.cfl
      ∧ (withdrawQueued order s).wq.records = s.wq.records
      ∧ (withdrawQueued order s).wq.plan = s.wq.plan
      ∧ (withdrawQueued order s).isc.directory = s.isc.directory
      ∧ (withdrawQueued order s).isc.store = s.isc.store
      ∧ (withdrawQueued order s).isc.crcArea = s.isc.crcArea
      ∧ (withdrawQueued order s).de = s.de
      ∧ (withdrawQueued order s).cp = s.cp
      ∧ (withdrawQueued order s).shu.holds = s.shu.holds
      ∧ (withdrawQueued order s).lu.loans = s.lu.loans
      ∧ (withdrawQueued order s).lu.day = s.lu.day
      ∧ (withdrawQueued order s).mlc = s.mlc
      ∧ (withdrawQueued order s).pp = s.pp := by
  unfold withdrawQueued
  split <;> simp

@[simp] theorem withdrawBid_frame (order : OrderSerial) (s : State) :
    (withdrawBid order s).clock = s.clock
      ∧ (withdrawBid order s).pending = s.pending
      ∧ (withdrawBid order s).cfl = s.cfl
      ∧ (withdrawBid order s).wq.records = s.wq.records
      ∧ (withdrawBid order s).wq.plan = s.wq.plan
      ∧ (withdrawBid order s).isc.directory = s.isc.directory
      ∧ (withdrawBid order s).isc.store = s.isc.store
      ∧ (withdrawBid order s).isc.crcArea = s.isc.crcArea
      ∧ (withdrawBid order s).de = s.de
      ∧ (withdrawBid order s).cp = s.cp
      ∧ (withdrawBid order s).shu.holds = s.shu.holds
      ∧ (withdrawBid order s).lu.loans = s.lu.loans
      ∧ (withdrawBid order s).lu.day = s.lu.day
      ∧ (withdrawBid order s).mlc = s.mlc
      ∧ (withdrawBid order s).pp = s.pp := by
  unfold withdrawBid
  simp

@[simp] theorem changeCart_frame (serial : CartSerial) (f : CartRecord → CartRecord) (s : State) :
    (changeCart serial f s).clock = s.clock
      ∧ (changeCart serial f s).raceCount = s.raceCount
      ∧ (changeCart serial f s).pending = s.pending
      ∧ (changeCart serial f s).cfl = s.cfl
      ∧ (changeCart serial f s).fli = s.fli
      ∧ (changeCart serial f s).au = s.au
      ∧ (changeCart serial f s).wq = s.wq
      ∧ (changeCart serial f s).isc = s.isc
      ∧ (changeCart serial f s).de = s.de
      ∧ (changeCart serial f s).shu = s.shu
      ∧ (changeCart serial f s).lu = s.lu
      ∧ (changeCart serial f s).mlc = s.mlc
      ∧ (changeCart serial f s).rti = s.rti
      ∧ (changeCart serial f s).pp = s.pp := by
  unfold changeCart
  simp

@[simp] theorem enterState_frame (serial : CartSerial) (st : CartState) (s : State) :
    (enterState serial st s).clock = s.clock
      ∧ (enterState serial st s).raceCount = s.raceCount
      ∧ (enterState serial st s).pending = s.pending
      ∧ (enterState serial st s).cfl = s.cfl
      ∧ (enterState serial st s).fli = s.fli
      ∧ (enterState serial st s).au = s.au
      ∧ (enterState serial st s).wq = s.wq
      ∧ (enterState serial st s).isc = s.isc
      ∧ (enterState serial st s).de = s.de
      ∧ (enterState serial st s).shu = s.shu
      ∧ (enterState serial st s).lu = s.lu
      ∧ (enterState serial st s).mlc = s.mlc
      ∧ (enterState serial st s).rti = s.rti
      ∧ (enterState serial st s).pp = s.pp := by
  unfold enterState
  split <;> simp

theorem enterCart_frame {r : CartRecord} {s : State} {s' : State} (h : enterCart r s = some s') :
    s'.clock = s.clock
      ∧ s'.raceCount = s.raceCount
      ∧ s'.pending = s.pending
      ∧ s'.cfl = s.cfl
      ∧ s'.fli = s.fli
      ∧ s'.au = s.au
      ∧ s'.wq = s.wq
      ∧ s'.isc = s.isc
      ∧ s'.de = s.de
      ∧ s'.shu = s.shu
      ∧ s'.lu = s.lu
      ∧ s'.mlc = s.mlc
      ∧ s'.rti = s.rti
      ∧ s'.pp = s.pp := by
  unfold enterCart at h
  repeat' split at h
  all_goals first | (cases h; simp; done) | cases h

@[simp] theorem insertUnknown_frame (k : SocketNo) (h : Header) (s : State) :
    (insertUnknown k h s).1.clock = s.clock ∧ (insertUnknown k h s).1.raceCount = s.raceCount
      ∧ (insertUnknown k h s).1.pending = s.pending ∧ (insertUnknown k h s).1.cfl = s.cfl
      ∧ (insertUnknown k h s).1.fli = s.fli ∧ (insertUnknown k h s).1.au = s.au
      ∧ (insertUnknown k h s).1.wq = s.wq ∧ (insertUnknown k h s).1.isc = s.isc ∧ (insertUnknown k h s).1.de = s.de
      ∧ (insertUnknown k h s).1.shu = s.shu ∧ (insertUnknown k h s).1.lu = s.lu ∧ (insertUnknown k h s).1.mlc = s.mlc
      ∧ (insertUnknown k h s).1.rti = s.rti ∧ (insertUnknown k h s).1.pp = s.pp := by
  unfold insertUnknown
  dsimp only
  split
  · rename_i e
    simp [enterCart_frame e]
  · simp

@[simp] theorem insertKnown_frame (k : SocketNo) (h : Header) (r : CartRecord) (s : State) :
    (insertKnown k h r s).1.clock = s.clock
      ∧ (insertKnown k h r s).1.raceCount = s.raceCount
      ∧ (insertKnown k h r s).1.pending = s.pending
      ∧ (insertKnown k h r s).1.cfl = s.cfl
      ∧ (insertKnown k h r s).1.fli = s.fli
      ∧ (insertKnown k h r s).1.au = s.au
      ∧ (insertKnown k h r s).1.wq = s.wq
      ∧ (insertKnown k h r s).1.isc = s.isc
      ∧ (insertKnown k h r s).1.de = s.de
      ∧ (insertKnown k h r s).1.shu = s.shu
      ∧ (insertKnown k h r s).1.lu = s.lu
      ∧ (insertKnown k h r s).1.mlc = s.mlc
      ∧ (insertKnown k h r s).1.rti = s.rti
      ∧ (insertKnown k h r s).1.pp = s.pp := by
  unfold insertKnown
  dsimp only
  repeat' split
  all_goals simp

@[simp] theorem insertCart_frame (k : SocketNo) (h : Header) (s : State) :
    (insertCart k h s).1.clock = s.clock
      ∧ (insertCart k h s).1.raceCount = s.raceCount
      ∧ (insertCart k h s).1.pending = s.pending
      ∧ (insertCart k h s).1.cfl = s.cfl
      ∧ (insertCart k h s).1.fli = s.fli
      ∧ (insertCart k h s).1.au = s.au
      ∧ (insertCart k h s).1.wq = s.wq
      ∧ (insertCart k h s).1.isc = s.isc
      ∧ (insertCart k h s).1.de = s.de
      ∧ (insertCart k h s).1.shu = s.shu
      ∧ (insertCart k h s).1.lu = s.lu
      ∧ (insertCart k h s).1.mlc = s.mlc
      ∧ (insertCart k h s).1.rti = s.rti
      ∧ (insertCart k h s).1.pp = s.pp := by
  unfold insertCart
  split <;> simp

@[simp] theorem enterCart_getD (r : CartRecord) (s : State) :
    ((enterCart r s).getD s).clock = s.clock
      ∧ ((enterCart r s).getD s).raceCount = s.raceCount
      ∧ ((enterCart r s).getD s).pending = s.pending
      ∧ ((enterCart r s).getD s).cfl = s.cfl
      ∧ ((enterCart r s).getD s).fli = s.fli
      ∧ ((enterCart r s).getD s).au = s.au
      ∧ ((enterCart r s).getD s).wq = s.wq
      ∧ ((enterCart r s).getD s).isc = s.isc
      ∧ ((enterCart r s).getD s).de = s.de
      ∧ ((enterCart r s).getD s).shu = s.shu
      ∧ ((enterCart r s).getD s).lu = s.lu
      ∧ ((enterCart r s).getD s).mlc = s.mlc
      ∧ ((enterCart r s).getD s).rti = s.rti
      ∧ ((enterCart r s).getD s).pp = s.pp := by
  cases h : enterCart r s with
  | none => simp
  | some s' => simp [enterCart_frame h]

@[simp] theorem leavePool_frame (tag : LoanTag) (s : State) (serial : CartSerial) :
    (leavePool tag s serial).clock = s.clock
      ∧ (leavePool tag s serial).raceCount = s.raceCount
      ∧ (leavePool tag s serial).pending = s.pending
      ∧ (leavePool tag s serial).cfl = s.cfl
      ∧ (leavePool tag s serial).fli = s.fli
      ∧ (leavePool tag s serial).au = s.au
      ∧ (leavePool tag s serial).wq = s.wq
      ∧ (leavePool tag s serial).isc = s.isc
      ∧ (leavePool tag s serial).de = s.de
      ∧ (leavePool tag s serial).shu = s.shu
      ∧ (leavePool tag s serial).lu = s.lu
      ∧ (leavePool tag s serial).mlc = s.mlc
      ∧ (leavePool tag s serial).rti = s.rti
      ∧ (leavePool tag s serial).pp = s.pp := by
  unfold leavePool
  simp

@[simp] theorem changeRecord_frame (order : OrderSerial) (f : WorkRecord → WorkRecord) (s : State) :
    (changeRecord order f s).clock = s.clock
      ∧ (changeRecord order f s).raceCount = s.raceCount
      ∧ (changeRecord order f s).pending = s.pending
      ∧ (changeRecord order f s).cfl = s.cfl
      ∧ (changeRecord order f s).fli = s.fli
      ∧ (changeRecord order f s).au = s.au
      ∧ (changeRecord order f s).wq.plan = s.wq.plan
      ∧ (changeRecord order f s).isc = s.isc
      ∧ (changeRecord order f s).de = s.de
      ∧ (changeRecord order f s).cp = s.cp
      ∧ (changeRecord order f s).shu = s.shu
      ∧ (changeRecord order f s).lu = s.lu
      ∧ (changeRecord order f s).mlc = s.mlc
      ∧ (changeRecord order f s).rti = s.rti
      ∧ (changeRecord order f s).pp = s.pp := by
  unfold changeRecord
  simp

@[simp] theorem changePlan_frame (slot : ℕ) (f : PlannedCart → PlannedCart) (s : State) :
    (changePlan slot f s).clock = s.clock
      ∧ (changePlan slot f s).raceCount = s.raceCount
      ∧ (changePlan slot f s).pending = s.pending
      ∧ (changePlan slot f s).cfl = s.cfl
      ∧ (changePlan slot f s).fli = s.fli
      ∧ (changePlan slot f s).au = s.au
      ∧ (changePlan slot f s).wq.records = s.wq.records
      ∧ (changePlan slot f s).isc = s.isc
      ∧ (changePlan slot f s).de = s.de
      ∧ (changePlan slot f s).cp = s.cp
      ∧ (changePlan slot f s).shu = s.shu
      ∧ (changePlan slot f s).lu = s.lu
      ∧ (changePlan slot f s).mlc = s.mlc
      ∧ (changePlan slot f s).rti = s.rti
      ∧ (changePlan slot f s).pp = s.pp := by
  unfold changePlan
  simp

@[simp] theorem raisePicks_frame (index : ℕ) (riders : List Rider) (s : State) :
    (raisePicks index riders s).clock = s.clock
      ∧ (raisePicks index riders s).raceCount = s.raceCount
      ∧ (raisePicks index riders s).pending = s.pending
      ∧ (raisePicks index riders s).cfl = s.cfl
      ∧ (raisePicks index riders s).fli = s.fli
      ∧ (raisePicks index riders s).au = s.au
      ∧ (raisePicks index riders s).wq = s.wq
      ∧ (raisePicks index riders s).isc = s.isc
      ∧ (raisePicks index riders s).de = s.de
      ∧ (raisePicks index riders s).cp = s.cp
      ∧ (raisePicks index riders s).shu = s.shu
      ∧ (raisePicks index riders s).lu = s.lu
      ∧ (raisePicks index riders s).mlc = s.mlc
      ∧ (raisePicks index riders s).rti = s.rti
      ∧ (raisePicks index riders s).pp.butEvents = s.pp.butEvents := by
  unfold raisePicks
  simp

@[simp] theorem renewBundle_frame (order : OrderSerial) (s : State) (b : Bundle) :
    (renewBundle order s b).clock = s.clock
      ∧ (renewBundle order s b).raceCount = s.raceCount
      ∧ (renewBundle order s b).pending = s.pending
      ∧ (renewBundle order s b).cfl = s.cfl
      ∧ (renewBundle order s b).fli = s.fli
      ∧ (renewBundle order s b).au = s.au
      ∧ (renewBundle order s b).wq.plan = s.wq.plan
      ∧ (renewBundle order s b).isc = s.isc
      ∧ (renewBundle order s b).de = s.de
      ∧ (renewBundle order s b).cp = s.cp
      ∧ (renewBundle order s b).shu = s.shu
      ∧ (renewBundle order s b).lu = s.lu
      ∧ (renewBundle order s b).mlc = s.mlc
      ∧ (renewBundle order s b).rti = s.rti
      ∧ (renewBundle order s b).pp.butEvents = s.pp.butEvents := by
  unfold renewBundle
  simp

@[simp] theorem renewRecord_frame (s : State) (order : OrderSerial) :
    (renewRecord s order).clock = s.clock
      ∧ (renewRecord s order).raceCount = s.raceCount
      ∧ (renewRecord s order).pending = s.pending
      ∧ (renewRecord s order).cfl = s.cfl
      ∧ (renewRecord s order).fli = s.fli
      ∧ (renewRecord s order).au = s.au
      ∧ (renewRecord s order).wq.plan = s.wq.plan
      ∧ (renewRecord s order).isc = s.isc
      ∧ (renewRecord s order).de = s.de
      ∧ (renewRecord s order).cp = s.cp
      ∧ (renewRecord s order).shu = s.shu
      ∧ (renewRecord s order).lu = s.lu
      ∧ (renewRecord s order).mlc = s.mlc
      ∧ (renewRecord s order).rti = s.rti
      ∧ (renewRecord s order).pp.butEvents = s.pp.butEvents := by
  unfold renewRecord
  split <;> simp

@[simp] theorem renewBundles_frame (s : State) :
    (renewBundles s).clock = s.clock
      ∧ (renewBundles s).raceCount = s.raceCount
      ∧ (renewBundles s).pending = s.pending
      ∧ (renewBundles s).cfl = s.cfl
      ∧ (renewBundles s).fli = s.fli
      ∧ (renewBundles s).au = s.au
      ∧ (renewBundles s).wq.plan = s.wq.plan
      ∧ (renewBundles s).isc = s.isc
      ∧ (renewBundles s).de = s.de
      ∧ (renewBundles s).cp = s.cp
      ∧ (renewBundles s).shu = s.shu
      ∧ (renewBundles s).lu = s.lu
      ∧ (renewBundles s).mlc = s.mlc
      ∧ (renewBundles s).rti = s.rti
      ∧ (renewBundles s).pp.butEvents = s.pp.butEvents := by
  unfold renewBundles
  simp

@[simp] theorem oweWalk_frame (s : State) :
    (oweWalk s).clock = s.clock
      ∧ (oweWalk s).raceCount = s.raceCount
      ∧ (oweWalk s).pending = s.pending
      ∧ (oweWalk s).cfl = s.cfl
      ∧ (oweWalk s).fli = s.fli
      ∧ (oweWalk s).au = s.au
      ∧ (oweWalk s).wq = s.wq
      ∧ (oweWalk s).isc = s.isc
      ∧ (oweWalk s).cp = s.cp
      ∧ (oweWalk s).shu = s.shu
      ∧ (oweWalk s).lu = s.lu
      ∧ (oweWalk s).mlc = s.mlc
      ∧ (oweWalk s).rti = s.rti
      ∧ (oweWalk s).pp = s.pp := by
  unfold oweWalk
  simp

@[simp] theorem unlinkPlan_frame (serial : CartSerial) (s : State) :
    (unlinkPlan serial s).clock = s.clock
      ∧ (unlinkPlan serial s).raceCount = s.raceCount
      ∧ (unlinkPlan serial s).pending = s.pending
      ∧ (unlinkPlan serial s).cfl = s.cfl
      ∧ (unlinkPlan serial s).fli = s.fli
      ∧ (unlinkPlan serial s).au = s.au
      ∧ (unlinkPlan serial s).wq.records = s.wq.records
      ∧ (unlinkPlan serial s).isc = s.isc
      ∧ (unlinkPlan serial s).cp = s.cp
      ∧ (unlinkPlan serial s).shu = s.shu
      ∧ (unlinkPlan serial s).lu = s.lu
      ∧ (unlinkPlan serial s).mlc = s.mlc
      ∧ (unlinkPlan serial s).rti = s.rti
      ∧ (unlinkPlan serial s).pp = s.pp := by
  unfold unlinkPlan
  simp

@[simp] theorem freePlan_frame (s : State) (slot : ℕ) :
    (freePlan s slot).clock = s.clock
      ∧ (freePlan s slot).raceCount = s.raceCount
      ∧ (freePlan s slot).pending = s.pending
      ∧ (freePlan s slot).cfl = s.cfl
      ∧ (freePlan s slot).fli = s.fli
      ∧ (freePlan s slot).au = s.au
      ∧ (freePlan s slot).wq.records = s.wq.records
      ∧ (freePlan s slot).isc = s.isc
      ∧ (freePlan s slot).de = s.de
      ∧ (freePlan s slot).shu = s.shu
      ∧ (freePlan s slot).lu = s.lu
      ∧ (freePlan s slot).mlc = s.mlc
      ∧ (freePlan s slot).rti = s.rti
      ∧ (freePlan s slot).pp = s.pp := by
  unfold freePlan
  split <;> simp

@[simp] theorem enterPlans_frame (o : OrderSerial) (l : List ((Nat × Nat) × List Placement)) (s : State) :
    (enterPlans o l s).clock = s.clock
      ∧ (enterPlans o l s).raceCount = s.raceCount
      ∧ (enterPlans o l s).pending = s.pending
      ∧ (enterPlans o l s).cfl = s.cfl
      ∧ (enterPlans o l s).fli = s.fli
      ∧ (enterPlans o l s).au = s.au
      ∧ (enterPlans o l s).wq.records = s.wq.records
      ∧ (enterPlans o l s).wq.held = s.wq.held
      ∧ (enterPlans o l s).isc = s.isc
      ∧ (enterPlans o l s).cp = s.cp
      ∧ (enterPlans o l s).shu = s.shu
      ∧ (enterPlans o l s).lu = s.lu
      ∧ (enterPlans o l s).mlc = s.mlc
      ∧ (enterPlans o l s).rti = s.rti
      ∧ (enterPlans o l s).pp = s.pp := by
  induction l generalizing s with
  | nil => simp [enterPlans]
  | cons a l ih => 
    simp only [enterPlans]
    split <;> simp [ih]

@[simp] theorem unlinkReturned_frame (serial : CartSerial) (slot : Nat) (s : State) :
    (unlinkReturned serial slot s).clock = s.clock
      ∧ (unlinkReturned serial slot s).raceCount = s.raceCount
      ∧ (unlinkReturned serial slot s).pending = s.pending
      ∧ (unlinkReturned serial slot s).cfl = s.cfl
      ∧ (unlinkReturned serial slot s).fli = s.fli
      ∧ (unlinkReturned serial slot s).au = s.au
      ∧ (unlinkReturned serial slot s).wq.held = s.wq.held
      ∧ (unlinkReturned serial slot s).wq.records = s.wq.records
      ∧ (unlinkReturned serial slot s).isc = s.isc
      ∧ (unlinkReturned serial slot s).de = s.de
      ∧ (unlinkReturned serial slot s).cp = s.cp
      ∧ (unlinkReturned serial slot s).shu = s.shu
      ∧ (unlinkReturned serial slot s).lu = s.lu
      ∧ (unlinkReturned serial slot s).mlc = s.mlc
      ∧ (unlinkReturned serial slot s).rti = s.rti
      ∧ (unlinkReturned serial slot s).pp = s.pp := by
  unfold unlinkReturned
  simp [changePlan]

@[simp] theorem writtenPlan_frame (serial : CartSerial) (s : State) :
    (writtenPlan serial s).clock = s.clock
      ∧ (writtenPlan serial s).raceCount = s.raceCount
      ∧ (writtenPlan serial s).pending = s.pending
      ∧ (writtenPlan serial s).cfl = s.cfl
      ∧ (writtenPlan serial s).fli = s.fli
      ∧ (writtenPlan serial s).au = s.au
      ∧ (writtenPlan serial s).wq.held = s.wq.held
      ∧ (writtenPlan serial s).wq.records = s.wq.records
      ∧ (writtenPlan serial s).isc = s.isc
      ∧ (writtenPlan serial s).de = s.de
      ∧ (writtenPlan serial s).cp = s.cp
      ∧ (writtenPlan serial s).shu = s.shu
      ∧ (writtenPlan serial s).lu = s.lu
      ∧ (writtenPlan serial s).mlc = s.mlc
      ∧ (writtenPlan serial s).rti = s.rti
      ∧ (writtenPlan serial s).pp = s.pp := by
  unfold writtenPlan
  simp

@[simp] theorem chuteEntry_frame (s : State) (serial : CartSerial) :
    (chuteEntry s serial).clock = s.clock
      ∧ (chuteEntry s serial).raceCount = s.raceCount
      ∧ (chuteEntry s serial).pending = s.pending
      ∧ (chuteEntry s serial).cfl = s.cfl
      ∧ (chuteEntry s serial).fli = s.fli
      ∧ (chuteEntry s serial).au = s.au
      ∧ (chuteEntry s serial).wq.records = s.wq.records
      ∧ (chuteEntry s serial).isc = s.isc
      ∧ (chuteEntry s serial).de = s.de
      ∧ (chuteEntry s serial).shu = s.shu
      ∧ (chuteEntry s serial).lu = s.lu
      ∧ (chuteEntry s serial).mlc = s.mlc
      ∧ (chuteEntry s serial).rti = s.rti
      ∧ (chuteEntry s serial).pp = s.pp := by
  unfold chuteEntry
  split
  · simp
  · repeat' split
    all_goals simp

@[simp] theorem renumberParts_frame (s : State) (order : OrderSerial) :
    (renumberParts s order).clock = s.clock
      ∧ (renumberParts s order).raceCount = s.raceCount
      ∧ (renumberParts s order).pending = s.pending
      ∧ (renumberParts s order).cfl = s.cfl
      ∧ (renumberParts s order).fli = s.fli
      ∧ (renumberParts s order).au = s.au
      ∧ (renumberParts s order).wq.records = s.wq.records
      ∧ (renumberParts s order).isc = s.isc
      ∧ (renumberParts s order).de = s.de
      ∧ (renumberParts s order).cp = s.cp
      ∧ (renumberParts s order).shu = s.shu
      ∧ (renumberParts s order).lu = s.lu
      ∧ (renumberParts s order).mlc = s.mlc
      ∧ (renumberParts s order).rti = s.rti
      ∧ (renumberParts s order).pp = s.pp := by
  unfold renumberParts
  simp

@[simp] theorem reserveCopy_frame (title : Title) (s : State) :
    (reserveCopy title s).clock = s.clock
      ∧ (reserveCopy title s).raceCount = s.raceCount
      ∧ (reserveCopy title s).pending = s.pending
      ∧ (reserveCopy title s).cfl = s.cfl
      ∧ (reserveCopy title s).fli = s.fli
      ∧ (reserveCopy title s).au = s.au
      ∧ (reserveCopy title s).wq = s.wq
      ∧ (reserveCopy title s).isc = s.isc
      ∧ (reserveCopy title s).de = s.de
      ∧ (reserveCopy title s).cp = s.cp
      ∧ (reserveCopy title s).shu.holds = s.shu.holds
      ∧ (reserveCopy title s).lu = s.lu
      ∧ (reserveCopy title s).mlc = s.mlc
      ∧ (reserveCopy title s).rti = s.rti
      ∧ (reserveCopy title s).pp = s.pp := by
  unfold reserveCopy
  simp

@[simp] theorem releaseCopy_frame (title : Title) (s : State) :
    (releaseCopy title s).clock = s.clock
      ∧ (releaseCopy title s).raceCount = s.raceCount
      ∧ (releaseCopy title s).pending = s.pending
      ∧ (releaseCopy title s).cfl = s.cfl
      ∧ (releaseCopy title s).fli = s.fli
      ∧ (releaseCopy title s).au = s.au
      ∧ (releaseCopy title s).wq = s.wq
      ∧ (releaseCopy title s).isc = s.isc
      ∧ (releaseCopy title s).de = s.de
      ∧ (releaseCopy title s).cp = s.cp
      ∧ (releaseCopy title s).shu.holds = s.shu.holds
      ∧ (releaseCopy title s).lu = s.lu
      ∧ (releaseCopy title s).mlc = s.mlc
      ∧ (releaseCopy title s).rti = s.rti
      ∧ (releaseCopy title s).pp = s.pp := by
  unfold releaseCopy
  simp

@[simp] theorem owePass_frame (title : Title) (s : State) :
    (owePass title s).clock = s.clock
      ∧ (owePass title s).raceCount = s.raceCount
      ∧ (owePass title s).pending = s.pending
      ∧ (owePass title s).cfl = s.cfl
      ∧ (owePass title s).fli = s.fli
      ∧ (owePass title s).au = s.au
      ∧ (owePass title s).wq = s.wq
      ∧ (owePass title s).isc = s.isc
      ∧ (owePass title s).de = s.de
      ∧ (owePass title s).cp = s.cp
      ∧ (owePass title s).shu.holds = s.shu.holds
      ∧ (owePass title s).lu = s.lu
      ∧ (owePass title s).mlc = s.mlc
      ∧ (owePass title s).rti = s.rti
      ∧ (owePass title s).pp = s.pp := by
  unfold owePass
  simp

@[simp] theorem dropEmptyShelf_frame (s : State) :
    (dropEmptyShelf s).clock = s.clock
      ∧ (dropEmptyShelf s).raceCount = s.raceCount
      ∧ (dropEmptyShelf s).pending = s.pending
      ∧ (dropEmptyShelf s).cfl = s.cfl
      ∧ (dropEmptyShelf s).fli = s.fli
      ∧ (dropEmptyShelf s).au = s.au
      ∧ (dropEmptyShelf s).wq = s.wq
      ∧ (dropEmptyShelf s).isc = s.isc
      ∧ (dropEmptyShelf s).de = s.de
      ∧ (dropEmptyShelf s).cp = s.cp
      ∧ (dropEmptyShelf s).shu.holds = s.shu.holds
      ∧ (dropEmptyShelf s).lu = s.lu
      ∧ (dropEmptyShelf s).mlc = s.mlc
      ∧ (dropEmptyShelf s).rti = s.rti
      ∧ (dropEmptyShelf s).pp = s.pp := by
  unfold dropEmptyShelf
  simp

@[simp] theorem copyLeaves_frame (title : Title) (s : State) :
    (copyLeaves title s).clock = s.clock
      ∧ (copyLeaves title s).raceCount = s.raceCount
      ∧ (copyLeaves title s).pending = s.pending
      ∧ (copyLeaves title s).cfl = s.cfl
      ∧ (copyLeaves title s).fli = s.fli
      ∧ (copyLeaves title s).au = s.au
      ∧ (copyLeaves title s).wq = s.wq
      ∧ (copyLeaves title s).isc = s.isc
      ∧ (copyLeaves title s).de = s.de
      ∧ (copyLeaves title s).cp = s.cp
      ∧ (copyLeaves title s).shu.holds = s.shu.holds
      ∧ (copyLeaves title s).lu = s.lu
      ∧ (copyLeaves title s).mlc = s.mlc
      ∧ (copyLeaves title s).rti = s.rti
      ∧ (copyLeaves title s).pp = s.pp := by
  unfold copyLeaves
  simp

@[simp] theorem itemTake_frame (h : Hold) (s : State) :
    (itemTake h s).clock = s.clock
      ∧ (itemTake h s).raceCount = s.raceCount
      ∧ (itemTake h s).pending = s.pending
      ∧ (itemTake h s).cfl = s.cfl
      ∧ (itemTake h s).fli = s.fli
      ∧ (itemTake h s).au = s.au
      ∧ (itemTake h s).wq.plan = s.wq.plan
      ∧ (itemTake h s).isc = s.isc
      ∧ (itemTake h s).de = s.de
      ∧ (itemTake h s).cp = s.cp
      ∧ (itemTake h s).shu = s.shu
      ∧ (itemTake h s).lu = s.lu
      ∧ (itemTake h s).mlc = s.mlc
      ∧ (itemTake h s).rti = s.rti
      ∧ (itemTake h s).pp.butEvents = s.pp.butEvents := by
  unfold itemTake
  split <;> simp

@[simp] theorem cancelHeldItem_frame (order : OrderSerial) (item : ℕ) (s : State) :
    (cancelHeldItem order item s).clock = s.clock
      ∧ (cancelHeldItem order item s).raceCount = s.raceCount
      ∧ (cancelHeldItem order item s).pending = s.pending
      ∧ (cancelHeldItem order item s).cfl = s.cfl
      ∧ (cancelHeldItem order item s).fli = s.fli
      ∧ (cancelHeldItem order item s).au = s.au
      ∧ (cancelHeldItem order item s).wq.plan = s.wq.plan
      ∧ (cancelHeldItem order item s).isc = s.isc
      ∧ (cancelHeldItem order item s).de = s.de
      ∧ (cancelHeldItem order item s).cp = s.cp
      ∧ (cancelHeldItem order item s).shu = s.shu
      ∧ (cancelHeldItem order item s).lu = s.lu
      ∧ (cancelHeldItem order item s).mlc = s.mlc
      ∧ (cancelHeldItem order item s).rti = s.rti
      ∧ (cancelHeldItem order item s).pp = s.pp := by
  unfold cancelHeldItem
  simp

@[simp] theorem removeHold_frame (order : OrderSerial) (item : ℕ) (s : State) :
    (removeHold order item s).clock = s.clock
      ∧ (removeHold order item s).raceCount = s.raceCount
      ∧ (removeHold order item s).pending = s.pending
      ∧ (removeHold order item s).cfl = s.cfl
      ∧ (removeHold order item s).fli = s.fli
      ∧ (removeHold order item s).au = s.au
      ∧ (removeHold order item s).wq = s.wq
      ∧ (removeHold order item s).isc = s.isc
      ∧ (removeHold order item s).de = s.de
      ∧ (removeHold order item s).cp = s.cp
      ∧ (removeHold order item s).lu = s.lu
      ∧ (removeHold order item s).mlc = s.mlc
      ∧ (removeHold order item s).rti = s.rti
      ∧ (removeHold order item s).pp = s.pp := by
  unfold removeHold
  simp

@[simp] theorem changeHold_frame (order : OrderSerial) (item : ℕ) (f : Hold → Hold) (s : State) :
    (changeHold order item f s).clock = s.clock
      ∧ (changeHold order item f s).raceCount = s.raceCount
      ∧ (changeHold order item f s).pending = s.pending
      ∧ (changeHold order item f s).cfl = s.cfl
      ∧ (changeHold order item f s).fli = s.fli
      ∧ (changeHold order item f s).au = s.au
      ∧ (changeHold order item f s).wq = s.wq
      ∧ (changeHold order item f s).isc = s.isc
      ∧ (changeHold order item f s).de = s.de
      ∧ (changeHold order item f s).cp = s.cp
      ∧ (changeHold order item f s).lu = s.lu
      ∧ (changeHold order item f s).mlc = s.mlc
      ∧ (changeHold order item f s).rti = s.rti
      ∧ (changeHold order item f s).pp = s.pp := by
  unfold changeHold
  simp

@[simp] theorem createHold_frame (order : OrderSerial) (index : ℕ) (o : Offer) (i : Item) (s : State) :
    (createHold order index o i s).clock = s.clock
      ∧ (createHold order index o i s).raceCount = s.raceCount
      ∧ (createHold order index o i s).pending = s.pending
      ∧ (createHold order index o i s).cfl = s.cfl
      ∧ (createHold order index o i s).fli = s.fli
      ∧ (createHold order index o i s).au = s.au
      ∧ (createHold order index o i s).wq = s.wq
      ∧ (createHold order index o i s).isc = s.isc
      ∧ (createHold order index o i s).de = s.de
      ∧ (createHold order index o i s).cp = s.cp
      ∧ (createHold order index o i s).lu = s.lu
      ∧ (createHold order index o i s).mlc = s.mlc
      ∧ (createHold order index o i s).rti = s.rti
      ∧ (createHold order index o i s).pp = s.pp := by
  unfold createHold
  simp

@[simp] theorem fillPlacedDays_frame (day : ℕ) (s : State) :
    (fillPlacedDays day s).clock = s.clock
      ∧ (fillPlacedDays day s).raceCount = s.raceCount
      ∧ (fillPlacedDays day s).pending = s.pending
      ∧ (fillPlacedDays day s).cfl = s.cfl
      ∧ (fillPlacedDays day s).fli = s.fli
      ∧ (fillPlacedDays day s).au = s.au
      ∧ (fillPlacedDays day s).wq = s.wq
      ∧ (fillPlacedDays day s).isc = s.isc
      ∧ (fillPlacedDays day s).de = s.de
      ∧ (fillPlacedDays day s).cp = s.cp
      ∧ (fillPlacedDays day s).lu = s.lu
      ∧ (fillPlacedDays day s).mlc = s.mlc
      ∧ (fillPlacedDays day s).rti = s.rti
      ∧ (fillPlacedDays day s).pp = s.pp := by
  unfold fillPlacedDays
  simp

@[simp] theorem serveHold_frame (h : Hold) (s : State) :
    (serveHold h s).clock = s.clock
      ∧ (serveHold h s).raceCount = s.raceCount
      ∧ (serveHold h s).pending = s.pending
      ∧ (serveHold h s).cfl = s.cfl
      ∧ (serveHold h s).fli = s.fli
      ∧ (serveHold h s).au = s.au
      ∧ (serveHold h s).wq.plan = s.wq.plan
      ∧ (serveHold h s).isc = s.isc
      ∧ (serveHold h s).de = s.de
      ∧ (serveHold h s).cp = s.cp
      ∧ (serveHold h s).lu = s.lu
      ∧ (serveHold h s).mlc = s.mlc
      ∧ (serveHold h s).rti = s.rti
      ∧ (serveHold h s).pp.butEvents = s.pp.butEvents := by
  unfold serveHold
  simp

@[simp] theorem dropFilled_frame (s : State) (h : Hold) :
    (dropFilled s h).clock = s.clock
      ∧ (dropFilled s h).raceCount = s.raceCount
      ∧ (dropFilled s h).pending = s.pending
      ∧ (dropFilled s h).cfl = s.cfl
      ∧ (dropFilled s h).fli = s.fli
      ∧ (dropFilled s h).au = s.au
      ∧ (dropFilled s h).wq = s.wq
      ∧ (dropFilled s h).isc = s.isc
      ∧ (dropFilled s h).de = s.de
      ∧ (dropFilled s h).cp = s.cp
      ∧ (dropFilled s h).lu = s.lu
      ∧ (dropFilled s h).mlc = s.mlc
      ∧ (dropFilled s h).rti = s.rti
      ∧ (dropFilled s h).pp = s.pp := by
  unfold dropFilled
  split <;> simp

@[simp] theorem serveSetAside_frame (s : State) (h : Hold) :
    (serveSetAside s h).clock = s.clock
      ∧ (serveSetAside s h).raceCount = s.raceCount
      ∧ (serveSetAside s h).pending = s.pending
      ∧ (serveSetAside s h).cfl = s.cfl
      ∧ (serveSetAside s h).fli = s.fli
      ∧ (serveSetAside s h).au = s.au
      ∧ (serveSetAside s h).wq.plan = s.wq.plan
      ∧ (serveSetAside s h).isc = s.isc
      ∧ (serveSetAside s h).de = s.de
      ∧ (serveSetAside s h).cp = s.cp
      ∧ (serveSetAside s h).lu = s.lu
      ∧ (serveSetAside s h).mlc = s.mlc
      ∧ (serveSetAside s h).rti = s.rti
      ∧ (serveSetAside s h).pp.butEvents = s.pp.butEvents := by
  unfold serveSetAside
  simp

@[simp] theorem serveFree_frame (s : State) (h : Hold) :
    (serveFree s h).clock = s.clock
      ∧ (serveFree s h).raceCount = s.raceCount
      ∧ (serveFree s h).pending = s.pending
      ∧ (serveFree s h).cfl = s.cfl
      ∧ (serveFree s h).fli = s.fli
      ∧ (serveFree s h).au = s.au
      ∧ (serveFree s h).wq.plan = s.wq.plan
      ∧ (serveFree s h).isc = s.isc
      ∧ (serveFree s h).de = s.de
      ∧ (serveFree s h).cp = s.cp
      ∧ (serveFree s h).lu = s.lu
      ∧ (serveFree s h).mlc = s.mlc
      ∧ (serveFree s h).rti = s.rti
      ∧ (serveFree s h).pp.butEvents = s.pp.butEvents := by
  unfold serveFree
  simp

@[simp] theorem servePass_frame (s : State) (title : Title) :
    (servePass s title).clock = s.clock
      ∧ (servePass s title).raceCount = s.raceCount
      ∧ (servePass s title).pending = s.pending
      ∧ (servePass s title).cfl = s.cfl
      ∧ (servePass s title).fli = s.fli
      ∧ (servePass s title).au = s.au
      ∧ (servePass s title).wq.plan = s.wq.plan
      ∧ (servePass s title).isc = s.isc
      ∧ (servePass s title).de = s.de
      ∧ (servePass s title).cp = s.cp
      ∧ (servePass s title).lu = s.lu
      ∧ (servePass s title).mlc = s.mlc
      ∧ (servePass s title).rti = s.rti
      ∧ (servePass s title).pp.butEvents = s.pp.butEvents := by
  unfold servePass
  simp

@[simp] theorem serveAllSetAside_frame (s : State) :
    (serveAllSetAside s).clock = s.clock
      ∧ (serveAllSetAside s).raceCount = s.raceCount
      ∧ (serveAllSetAside s).pending = s.pending
      ∧ (serveAllSetAside s).cfl = s.cfl
      ∧ (serveAllSetAside s).fli = s.fli
      ∧ (serveAllSetAside s).au = s.au
      ∧ (serveAllSetAside s).wq.plan = s.wq.plan
      ∧ (serveAllSetAside s).isc = s.isc
      ∧ (serveAllSetAside s).de = s.de
      ∧ (serveAllSetAside s).cp = s.cp
      ∧ (serveAllSetAside s).lu = s.lu
      ∧ (serveAllSetAside s).mlc = s.mlc
      ∧ (serveAllSetAside s).rti = s.rti
      ∧ (serveAllSetAside s).pp.butEvents = s.pp.butEvents := by
  unfold serveAllSetAside
  simp

@[simp] theorem serveAll_frame (s : State) :
    (serveAll s).clock = s.clock
      ∧ (serveAll s).raceCount = s.raceCount
      ∧ (serveAll s).pending = s.pending
      ∧ (serveAll s).cfl = s.cfl
      ∧ (serveAll s).fli = s.fli
      ∧ (serveAll s).au = s.au
      ∧ (serveAll s).wq.plan = s.wq.plan
      ∧ (serveAll s).isc = s.isc
      ∧ (serveAll s).de = s.de
      ∧ (serveAll s).cp = s.cp
      ∧ (serveAll s).lu = s.lu
      ∧ (serveAll s).mlc = s.mlc
      ∧ (serveAll s).rti = s.rti
      ∧ (serveAll s).pp.butEvents = s.pp.butEvents := by
  unfold serveAll
  simp

@[simp] theorem serveAndMark_frame (s : State) (title : Title) :
    (serveAndMark s title).clock = s.clock
      ∧ (serveAndMark s title).raceCount = s.raceCount
      ∧ (serveAndMark s title).pending = s.pending
      ∧ (serveAndMark s title).cfl = s.cfl
      ∧ (serveAndMark s title).fli = s.fli
      ∧ (serveAndMark s title).au = s.au
      ∧ (serveAndMark s title).wq.plan = s.wq.plan
      ∧ (serveAndMark s title).isc = s.isc
      ∧ (serveAndMark s title).de = s.de
      ∧ (serveAndMark s title).cp = s.cp
      ∧ (serveAndMark s title).lu = s.lu
      ∧ (serveAndMark s title).mlc = s.mlc
      ∧ (serveAndMark s title).rti = s.rti
      ∧ (serveAndMark s title).pp.butEvents = s.pp.butEvents := by
  unfold serveAndMark
  simp

@[simp] theorem serveDue_frame (s : State) :
    (serveDue s).clock = s.clock
      ∧ (serveDue s).raceCount = s.raceCount
      ∧ (serveDue s).pending = s.pending
      ∧ (serveDue s).cfl = s.cfl
      ∧ (serveDue s).fli = s.fli
      ∧ (serveDue s).au = s.au
      ∧ (serveDue s).wq.plan = s.wq.plan
      ∧ (serveDue s).isc = s.isc
      ∧ (serveDue s).de = s.de
      ∧ (serveDue s).cp = s.cp
      ∧ (serveDue s).lu = s.lu
      ∧ (serveDue s).mlc = s.mlc
      ∧ (serveDue s).rti = s.rti
      ∧ (serveDue s).pp.butEvents = s.pp.butEvents := by
  unfold serveDue
  simp

theorem shelfAdd_frame {title : Title} {volumes : ℕ} {copies : ℕ} {s : State} {s' : State} (h : shelfAdd title volumes copies s = some s') :
    s'.clock = s.clock
      ∧ s'.raceCount = s.raceCount
      ∧ s'.pending = s.pending
      ∧ s'.cfl = s.cfl
      ∧ s'.fli = s.fli
      ∧ s'.au = s.au
      ∧ s'.wq = s.wq
      ∧ s'.isc = s.isc
      ∧ s'.de = s.de
      ∧ s'.cp = s.cp
      ∧ s'.shu.holds = s.shu.holds
      ∧ s'.lu = s.lu
      ∧ s'.mlc = s.mlc
      ∧ s'.rti = s.rti
      ∧ s'.pp = s.pp := by
  unfold shelfAdd at h
  repeat' split at h
  all_goals first | (cases h; simp; done) | cases h

theorem shelfWithdraw_frame {title : Title} {s : State} {s' : State} (h : shelfWithdraw title s = some s') :
    s'.clock = s.clock
      ∧ s'.raceCount = s.raceCount
      ∧ s'.pending = s.pending
      ∧ s'.cfl = s.cfl
      ∧ s'.fli = s.fli
      ∧ s'.au = s.au
      ∧ s'.wq = s.wq
      ∧ s'.isc = s.isc
      ∧ s'.de = s.de
      ∧ s'.cp = s.cp
      ∧ s'.shu.holds = s.shu.holds
      ∧ s'.lu = s.lu
      ∧ s'.mlc = s.mlc
      ∧ s'.rti = s.rti
      ∧ s'.pp = s.pp := by
  unfold shelfWithdraw at h
  repeat' split at h
  all_goals first | (cases h; simp; done) | cases h

theorem copyHome_frame {title : Title} {perCopy : ℕ} {s : State} {s' : State} (h : copyHome title perCopy s = some s') :
    s'.clock = s.clock
      ∧ s'.raceCount = s.raceCount
      ∧ s'.pending = s.pending
      ∧ s'.cfl = s.cfl
      ∧ s'.fli = s.fli
      ∧ s'.au = s.au
      ∧ s'.wq = s.wq
      ∧ s'.isc = s.isc
      ∧ s'.de = s.de
      ∧ s'.cp = s.cp
      ∧ s'.shu.holds = s.shu.holds
      ∧ s'.lu = s.lu
      ∧ s'.mlc = s.mlc
      ∧ s'.rti = s.rti
      ∧ s'.pp = s.pp := by
  unfold copyHome at h
  repeat' split at h
  all_goals first | (cases h; simp; done) | cases h

theorem strayCopy_frame {title : Title} {s : State} {s' : State} (h : strayCopy title s = some s') :
    s'.clock = s.clock
      ∧ s'.raceCount = s.raceCount
      ∧ s'.pending = s.pending
      ∧ s'.cfl = s.cfl
      ∧ s'.fli = s.fli
      ∧ s'.au = s.au
      ∧ s'.wq = s.wq
      ∧ s'.isc = s.isc
      ∧ s'.de = s.de
      ∧ s'.cp = s.cp
      ∧ s'.shu.holds = s.shu.holds
      ∧ s'.lu = s.lu
      ∧ s'.mlc = s.mlc
      ∧ s'.rti = s.rti
      ∧ s'.pp = s.pp := by
  unfold strayCopy at h
  repeat' split at h
  all_goals first | (cases h; simp; done) | cases h

@[simp] theorem copyWrittenOff_frame (title : Title) (s : State) :
    (copyWrittenOff title s).clock = s.clock
      ∧ (copyWrittenOff title s).raceCount = s.raceCount
      ∧ (copyWrittenOff title s).pending = s.pending
      ∧ (copyWrittenOff title s).cfl = s.cfl
      ∧ (copyWrittenOff title s).fli = s.fli
      ∧ (copyWrittenOff title s).au = s.au
      ∧ (copyWrittenOff title s).wq = s.wq
      ∧ (copyWrittenOff title s).isc = s.isc
      ∧ (copyWrittenOff title s).de = s.de
      ∧ (copyWrittenOff title s).cp = s.cp
      ∧ (copyWrittenOff title s).shu.holds = s.shu.holds
      ∧ (copyWrittenOff title s).lu = s.lu
      ∧ (copyWrittenOff title s).mlc = s.mlc
      ∧ (copyWrittenOff title s).rti = s.rti
      ∧ (copyWrittenOff title s).pp = s.pp := by
  unfold copyWrittenOff
  split <;> simp

@[simp] theorem lapseHold_frame (h : Hold) (s : State) :
    (lapseHold h s).clock = s.clock
      ∧ (lapseHold h s).raceCount = s.raceCount
      ∧ (lapseHold h s).pending = s.pending
      ∧ (lapseHold h s).cfl = s.cfl
      ∧ (lapseHold h s).fli.butQueue = s.fli.butQueue
      ∧ (lapseHold h s).au = s.au
      ∧ (lapseHold h s).wq.plan = s.wq.plan
      ∧ (lapseHold h s).isc = s.isc
      ∧ (lapseHold h s).de = s.de
      ∧ (lapseHold h s).cp = s.cp
      ∧ (lapseHold h s).lu = s.lu
      ∧ (lapseHold h s).mlc = s.mlc
      ∧ (lapseHold h s).rti = s.rti
      ∧ (lapseHold h s).pp.butEvents = s.pp.butEvents := by
  unfold lapseHold
  simp

@[simp] theorem lapseScan_frame (s : State) :
    (lapseScan s).clock = s.clock
      ∧ (lapseScan s).raceCount = s.raceCount
      ∧ (lapseScan s).pending = s.pending
      ∧ (lapseScan s).cfl = s.cfl
      ∧ (lapseScan s).fli.butQueue = s.fli.butQueue
      ∧ (lapseScan s).au = s.au
      ∧ (lapseScan s).wq.plan = s.wq.plan
      ∧ (lapseScan s).isc = s.isc
      ∧ (lapseScan s).de = s.de
      ∧ (lapseScan s).cp = s.cp
      ∧ (lapseScan s).lu = s.lu
      ∧ (lapseScan s).mlc = s.mlc
      ∧ (lapseScan s).rti = s.rti
      ∧ (lapseScan s).pp.butEvents = s.pp.butEvents := by
  unfold lapseScan
  simp

@[simp] theorem returnHold_frame (order : OrderSerial) (item : ℕ) (s : State) :
    (returnHold order item s).clock = s.clock
      ∧ (returnHold order item s).raceCount = s.raceCount
      ∧ (returnHold order item s).pending = s.pending
      ∧ (returnHold order item s).cfl = s.cfl
      ∧ (returnHold order item s).fli.butQueue = s.fli.butQueue
      ∧ (returnHold order item s).au = s.au
      ∧ (returnHold order item s).wq.plan = s.wq.plan
      ∧ (returnHold order item s).isc = s.isc
      ∧ (returnHold order item s).de = s.de
      ∧ (returnHold order item s).cp = s.cp
      ∧ (returnHold order item s).lu = s.lu
      ∧ (returnHold order item s).mlc = s.mlc
      ∧ (returnHold order item s).rti = s.rti
      ∧ (returnHold order item s).pp.butEvents = s.pp.butEvents := by
  unfold returnHold
  dsimp only
  split <;> simp

@[simp] theorem discardHandover_frame (order : OrderSerial) (item : ℕ) (s : State) :
    (discardHandover order item s).clock = s.clock
      ∧ (discardHandover order item s).raceCount = s.raceCount
      ∧ (discardHandover order item s).pending = s.pending
      ∧ (discardHandover order item s).cfl = s.cfl
      ∧ (discardHandover order item s).fli = s.fli
      ∧ (discardHandover order item s).au = s.au
      ∧ (discardHandover order item s).wq = s.wq
      ∧ (discardHandover order item s).isc = s.isc
      ∧ (discardHandover order item s).de = s.de
      ∧ (discardHandover order item s).cp = s.cp
      ∧ (discardHandover order item s).shu.holds = s.shu.holds
      ∧ (discardHandover order item s).lu = s.lu
      ∧ (discardHandover order item s).mlc = s.mlc
      ∧ (discardHandover order item s).rti = s.rti
      ∧ (discardHandover order item s).pp = s.pp := by
  unfold discardHandover
  simp

@[simp] theorem holdTakenElsewhere_frame (order : OrderSerial) (item : ℕ) (s : State) :
    (holdTakenElsewhere order item s).clock = s.clock
      ∧ (holdTakenElsewhere order item s).raceCount = s.raceCount
      ∧ (holdTakenElsewhere order item s).pending = s.pending
      ∧ (holdTakenElsewhere order item s).cfl = s.cfl
      ∧ (holdTakenElsewhere order item s).fli = s.fli
      ∧ (holdTakenElsewhere order item s).au = s.au
      ∧ (holdTakenElsewhere order item s).wq.plan = s.wq.plan
      ∧ (holdTakenElsewhere order item s).isc = s.isc
      ∧ (holdTakenElsewhere order item s).de = s.de
      ∧ (holdTakenElsewhere order item s).cp = s.cp
      ∧ (holdTakenElsewhere order item s).lu = s.lu
      ∧ (holdTakenElsewhere order item s).mlc = s.mlc
      ∧ (holdTakenElsewhere order item s).rti = s.rti
      ∧ (holdTakenElsewhere order item s).pp = s.pp := by
  unfold holdTakenElsewhere
  split <;> simp

@[simp] theorem removeOrderHolds_frame (order : OrderSerial) (s : State) :
    (removeOrderHolds order s).clock = s.clock
      ∧ (removeOrderHolds order s).raceCount = s.raceCount
      ∧ (removeOrderHolds order s).pending = s.pending
      ∧ (removeOrderHolds order s).cfl = s.cfl
      ∧ (removeOrderHolds order s).fli = s.fli
      ∧ (removeOrderHolds order s).au = s.au
      ∧ (removeOrderHolds order s).wq = s.wq
      ∧ (removeOrderHolds order s).isc = s.isc
      ∧ (removeOrderHolds order s).de = s.de
      ∧ (removeOrderHolds order s).cp = s.cp
      ∧ (removeOrderHolds order s).lu = s.lu
      ∧ (removeOrderHolds order s).mlc = s.mlc
      ∧ (removeOrderHolds order s).rti = s.rti
      ∧ (removeOrderHolds order s).pp = s.pp := by
  unfold removeOrderHolds
  simp

@[simp] theorem offerHold_frame (to' : Station) (s : State) (h : Hold) :
    (offerHold to' s h).clock = s.clock
      ∧ (offerHold to' s h).raceCount = s.raceCount
      ∧ (offerHold to' s h).pending = s.pending
      ∧ (offerHold to' s h).cfl = s.cfl
      ∧ (offerHold to' s h).fli.butQueue = s.fli.butQueue
      ∧ (offerHold to' s h).au = s.au
      ∧ (offerHold to' s h).wq = s.wq
      ∧ (offerHold to' s h).isc = s.isc
      ∧ (offerHold to' s h).de = s.de
      ∧ (offerHold to' s h).cp = s.cp
      ∧ (offerHold to' s h).lu = s.lu
      ∧ (offerHold to' s h).mlc = s.mlc
      ∧ (offerHold to' s h).rti = s.rti
      ∧ (offerHold to' s h).pp = s.pp := by
  unfold offerHold
  simp

@[simp] theorem hearAvailable_frame (f : Received) (s : State) :
    (hearAvailable f s).clock = s.clock
      ∧ (hearAvailable f s).raceCount = s.raceCount
      ∧ (hearAvailable f s).pending = s.pending
      ∧ (hearAvailable f s).cfl = s.cfl
      ∧ (hearAvailable f s).fli.butQueue = s.fli.butQueue
      ∧ (hearAvailable f s).au = s.au
      ∧ (hearAvailable f s).wq = s.wq
      ∧ (hearAvailable f s).isc = s.isc
      ∧ (hearAvailable f s).de = s.de
      ∧ (hearAvailable f s).cp = s.cp
      ∧ (hearAvailable f s).lu = s.lu
      ∧ (hearAvailable f s).mlc = s.mlc
      ∧ (hearAvailable f s).rti = s.rti
      ∧ (hearAvailable f s).pp = s.pp := by
  unfold hearAvailable
  simp

@[simp] theorem hearHandover_frame (f : Received) (s : State) :
    (hearHandover f s).clock = s.clock
      ∧ (hearHandover f s).raceCount = s.raceCount
      ∧ (hearHandover f s).pending = s.pending
      ∧ (hearHandover f s).cfl = s.cfl
      ∧ (hearHandover f s).fli.butQueue = s.fli.butQueue
      ∧ (hearHandover f s).au = s.au
      ∧ (hearHandover f s).wq.plan = s.wq.plan
      ∧ (hearHandover f s).isc = s.isc
      ∧ (hearHandover f s).de = s.de
      ∧ (hearHandover f s).cp = s.cp
      ∧ (hearHandover f s).shu.holds = s.shu.holds
      ∧ (hearHandover f s).lu = s.lu
      ∧ (hearHandover f s).mlc = s.mlc
      ∧ (hearHandover f s).rti = s.rti
      ∧ (hearHandover f s).pp.butEvents = s.pp.butEvents := by
  unfold hearHandover
  split <;> simp

@[simp] theorem hearRefuse_frame (f : Received) (s : State) :
    (hearRefuse f s).clock = s.clock
      ∧ (hearRefuse f s).raceCount = s.raceCount
      ∧ (hearRefuse f s).pending = s.pending
      ∧ (hearRefuse f s).cfl = s.cfl
      ∧ (hearRefuse f s).fli.butQueue = s.fli.butQueue
      ∧ (hearRefuse f s).au = s.au
      ∧ (hearRefuse f s).wq.plan = s.wq.plan
      ∧ (hearRefuse f s).isc = s.isc
      ∧ (hearRefuse f s).de = s.de
      ∧ (hearRefuse f s).cp = s.cp
      ∧ (hearRefuse f s).lu = s.lu
      ∧ (hearRefuse f s).mlc = s.mlc
      ∧ (hearRefuse f s).rti = s.rti
      ∧ (hearRefuse f s).pp.butEvents = s.pp.butEvents := by
  unfold hearRefuse
  repeat' split
  all_goals simp

@[simp] theorem changeSocket_frame (k : SocketNo) (f : SocketEntry → SocketEntry) (s : State) :
    (changeSocket k f s).clock = s.clock
      ∧ (changeSocket k f s).raceCount = s.raceCount
      ∧ (changeSocket k f s).pending = s.pending
      ∧ (changeSocket k f s).cfl = s.cfl
      ∧ (changeSocket k f s).fli = s.fli
      ∧ (changeSocket k f s).au = s.au
      ∧ (changeSocket k f s).wq = s.wq
      ∧ (changeSocket k f s).isc = s.isc
      ∧ (changeSocket k f s).cp = s.cp
      ∧ (changeSocket k f s).shu = s.shu
      ∧ (changeSocket k f s).lu = s.lu
      ∧ (changeSocket k f s).mlc = s.mlc
      ∧ (changeSocket k f s).rti = s.rti
      ∧ (changeSocket k f s).pp = s.pp := by
  unfold changeSocket
  simp

@[simp] theorem clearSlots_frame (k : SocketNo) (s : State) :
    (clearSlots k s).clock = s.clock
      ∧ (clearSlots k s).raceCount = s.raceCount
      ∧ (clearSlots k s).pending = s.pending
      ∧ (clearSlots k s).cfl = s.cfl
      ∧ (clearSlots k s).fli = s.fli
      ∧ (clearSlots k s).au = s.au
      ∧ (clearSlots k s).wq = s.wq
      ∧ (clearSlots k s).isc = s.isc
      ∧ (clearSlots k s).cp = s.cp
      ∧ (clearSlots k s).shu = s.shu
      ∧ (clearSlots k s).lu = s.lu
      ∧ (clearSlots k s).mlc = s.mlc
      ∧ (clearSlots k s).rti = s.rti
      ∧ (clearSlots k s).pp = s.pp := by
  unfold clearSlots
  simp

@[simp] theorem startErase_frame (k : SocketNo) (serial : CartSerial) (s : State) :
    (startErase k serial s).clock = s.clock
      ∧ (startErase k serial s).raceCount = s.raceCount
      ∧ (startErase k serial s).pending = s.pending
      ∧ (startErase k serial s).cfl = s.cfl
      ∧ (startErase k serial s).fli = s.fli
      ∧ (startErase k serial s).au = s.au
      ∧ (startErase k serial s).wq = s.wq
      ∧ (startErase k serial s).isc = s.isc
      ∧ (startErase k serial s).shu = s.shu
      ∧ (startErase k serial s).lu = s.lu
      ∧ (startErase k serial s).mlc = s.mlc
      ∧ (startErase k serial s).rti = s.rti
      ∧ (startErase k serial s).pp = s.pp := by
  unfold startErase
  simp

@[simp] theorem makeDirty_frame (serial : CartSerial) (s : State) :
    (makeDirty serial s).clock = s.clock
      ∧ (makeDirty serial s).raceCount = s.raceCount
      ∧ (makeDirty serial s).pending = s.pending
      ∧ (makeDirty serial s).cfl = s.cfl
      ∧ (makeDirty serial s).fli = s.fli
      ∧ (makeDirty serial s).au = s.au
      ∧ (makeDirty serial s).wq.records = s.wq.records
      ∧ (makeDirty serial s).isc = s.isc
      ∧ (makeDirty serial s).shu = s.shu
      ∧ (makeDirty serial s).lu = s.lu
      ∧ (makeDirty serial s).mlc = s.mlc
      ∧ (makeDirty serial s).rti = s.rti
      ∧ (makeDirty serial s).pp = s.pp := by
  unfold makeDirty
  simp

@[simp] theorem stopCart_frame (serial : CartSerial) (s : State) :
    (stopCart serial s).clock = s.clock
      ∧ (stopCart serial s).raceCount = s.raceCount
      ∧ (stopCart serial s).pending = s.pending
      ∧ (stopCart serial s).cfl = s.cfl
      ∧ (stopCart serial s).fli = s.fli
      ∧ (stopCart serial s).au = s.au
      ∧ (stopCart serial s).wq.records = s.wq.records
      ∧ (stopCart serial s).isc = s.isc
      ∧ (stopCart serial s).shu = s.shu
      ∧ (stopCart serial s).lu = s.lu
      ∧ (stopCart serial s).mlc = s.mlc
      ∧ (stopCart serial s).rti = s.rti
      ∧ (stopCart serial s).pp = s.pp := by
  unfold stopCart
  split <;> simp

@[simp] theorem giveUpCart_frame (serial : CartSerial) (s : State) :
    (giveUpCart serial s).clock = s.clock
      ∧ (giveUpCart serial s).raceCount = s.raceCount
      ∧ (giveUpCart serial s).pending = s.pending
      ∧ (giveUpCart serial s).cfl = s.cfl
      ∧ (giveUpCart serial s).fli = s.fli
      ∧ (giveUpCart serial s).au = s.au
      ∧ (giveUpCart serial s).wq.records = s.wq.records
      ∧ (giveUpCart serial s).isc = s.isc
      ∧ (giveUpCart serial s).shu = s.shu
      ∧ (giveUpCart serial s).lu = s.lu
      ∧ (giveUpCart serial s).mlc = s.mlc
      ∧ (giveUpCart serial s).rti = s.rti
      ∧ (giveUpCart serial s).pp = s.pp := by
  unfold giveUpCart
  repeat' split
  all_goals simp

@[simp] theorem restSocket_frame (k : SocketNo) (s : State) :
    (restSocket k s).clock = s.clock
      ∧ (restSocket k s).raceCount = s.raceCount
      ∧ (restSocket k s).pending = s.pending
      ∧ (restSocket k s).cfl = s.cfl
      ∧ (restSocket k s).fli = s.fli
      ∧ (restSocket k s).au = s.au
      ∧ (restSocket k s).wq = s.wq
      ∧ (restSocket k s).isc = s.isc
      ∧ (restSocket k s).cp = s.cp
      ∧ (restSocket k s).shu = s.shu
      ∧ (restSocket k s).lu = s.lu
      ∧ (restSocket k s).mlc = s.mlc
      ∧ (restSocket k s).rti = s.rti
      ∧ (restSocket k s).pp = s.pp := by
  unfold restSocket
  simp

@[simp] theorem holdSocket_frame (k : SocketNo) (s : State) :
    (holdSocket k s).clock = s.clock
      ∧ (holdSocket k s).raceCount = s.raceCount
      ∧ (holdSocket k s).pending = s.pending
      ∧ (holdSocket k s).cfl = s.cfl
      ∧ (holdSocket k s).fli = s.fli
      ∧ (holdSocket k s).au = s.au
      ∧ (holdSocket k s).wq = s.wq
      ∧ (holdSocket k s).isc = s.isc
      ∧ (holdSocket k s).cp = s.cp
      ∧ (holdSocket k s).shu = s.shu
      ∧ (holdSocket k s).lu = s.lu
      ∧ (holdSocket k s).mlc = s.mlc
      ∧ (holdSocket k s).rti = s.rti
      ∧ (holdSocket k s).pp = s.pp := by
  unfold holdSocket
  simp

@[simp] theorem waitCart_frame (serial : CartSerial) (s : State) :
    (waitCart serial s).clock = s.clock
      ∧ (waitCart serial s).raceCount = s.raceCount
      ∧ (waitCart serial s).pending = s.pending
      ∧ (waitCart serial s).cfl = s.cfl
      ∧ (waitCart serial s).fli = s.fli
      ∧ (waitCart serial s).au = s.au
      ∧ (waitCart serial s).wq = s.wq
      ∧ (waitCart serial s).isc = s.isc
      ∧ (waitCart serial s).cp = s.cp
      ∧ (waitCart serial s).shu = s.shu
      ∧ (waitCart serial s).lu = s.lu
      ∧ (waitCart serial s).mlc = s.mlc
      ∧ (waitCart serial s).rti = s.rti
      ∧ (waitCart serial s).pp = s.pp := by
  unfold waitCart
  split <;> simp

@[simp] theorem returnCart_frame (serial : CartSerial) (s : State) :
    (returnCart serial s).clock = s.clock
      ∧ (returnCart serial s).raceCount = s.raceCount
      ∧ (returnCart serial s).pending = s.pending
      ∧ (returnCart serial s).cfl = s.cfl
      ∧ (returnCart serial s).fli = s.fli
      ∧ (returnCart serial s).au = s.au
      ∧ (returnCart serial s).wq.records = s.wq.records
      ∧ (returnCart serial s).isc = s.isc
      ∧ (returnCart serial s).shu = s.shu
      ∧ (returnCart serial s).lu = s.lu
      ∧ (returnCart serial s).mlc = s.mlc
      ∧ (returnCart serial s).rti = s.rti
      ∧ (returnCart serial s).pp = s.pp := by
  unfold returnCart
  dsimp only
  split <;> simp

@[simp] theorem offerClosing_frame (r : WorkRecord) (o : Outcome) (s : State) :
    (offerClosing r o s).clock = s.clock
      ∧ (offerClosing r o s).raceCount = s.raceCount
      ∧ (offerClosing r o s).pending = s.pending
      ∧ (offerClosing r o s).cfl = s.cfl
      ∧ (offerClosing r o s).fli.butQueue = s.fli.butQueue
      ∧ (offerClosing r o s).au = s.au
      ∧ (offerClosing r o s).wq.records = s.wq.records
      ∧ (offerClosing r o s).wq.plan = s.wq.plan
      ∧ (offerClosing r o s).isc = s.isc
      ∧ (offerClosing r o s).de = s.de
      ∧ (offerClosing r o s).cp = s.cp
      ∧ (offerClosing r o s).shu = s.shu
      ∧ (offerClosing r o s).lu = s.lu
      ∧ (offerClosing r o s).mlc = s.mlc
      ∧ (offerClosing r o s).rti = s.rti
      ∧ (offerClosing r o s).pp = s.pp := by
  unfold offerClosing
  dsimp only
  split <;> simp

@[simp] theorem completeRecord_frame (s : State) (r : WorkRecord) :
    (completeRecord s r).clock = s.clock
      ∧ (completeRecord s r).raceCount = s.raceCount
      ∧ (completeRecord s r).pending = s.pending
      ∧ (completeRecord s r).cfl = s.cfl
      ∧ (completeRecord s r).fli.butQueue = s.fli.butQueue
      ∧ (completeRecord s r).au = s.au
      ∧ (completeRecord s r).isc = s.isc
      ∧ (completeRecord s r).de = s.de
      ∧ (completeRecord s r).lu = s.lu
      ∧ (completeRecord s r).mlc = s.mlc
      ∧ (completeRecord s r).rti = s.rti
      ∧ (completeRecord s r).pp.butEvents = s.pp.butEvents := by
  unfold completeRecord
  split <;> simp

@[simp] theorem completeIfDone_frame (s : State) (order : OrderSerial) :
    (completeIfDone s order).clock = s.clock
      ∧ (completeIfDone s order).raceCount = s.raceCount
      ∧ (completeIfDone s order).pending = s.pending
      ∧ (completeIfDone s order).cfl = s.cfl
      ∧ (completeIfDone s order).fli.butQueue = s.fli.butQueue
      ∧ (completeIfDone s order).au = s.au
      ∧ (completeIfDone s order).isc = s.isc
      ∧ (completeIfDone s order).de = s.de
      ∧ (completeIfDone s order).lu = s.lu
      ∧ (completeIfDone s order).mlc = s.mlc
      ∧ (completeIfDone s order).rti = s.rti
      ∧ (completeIfDone s order).pp.butEvents = s.pp.butEvents := by
  unfold completeIfDone
  split <;> simp

@[simp] theorem settleWork_frame (s : State) :
    (settleWork s).clock = s.clock
      ∧ (settleWork s).raceCount = s.raceCount
      ∧ (settleWork s).pending = s.pending
      ∧ (settleWork s).cfl = s.cfl
      ∧ (settleWork s).fli.butQueue = s.fli.butQueue
      ∧ (settleWork s).au = s.au
      ∧ (settleWork s).isc = s.isc
      ∧ (settleWork s).de = s.de
      ∧ (settleWork s).lu = s.lu
      ∧ (settleWork s).mlc = s.mlc
      ∧ (settleWork s).rti = s.rti
      ∧ (settleWork s).pp.butEvents = s.pp.butEvents := by
  unfold settleWork
  simp

@[simp] theorem closeItem_frame (r : WorkRecord) (s : State) (i : WorkItem) :
    (closeItem r s i).clock = s.clock
      ∧ (closeItem r s i).raceCount = s.raceCount
      ∧ (closeItem r s i).pending = s.pending
      ∧ (closeItem r s i).cfl = s.cfl
      ∧ (closeItem r s i).fli.butQueue = s.fli.butQueue
      ∧ (closeItem r s i).au = s.au
      ∧ (closeItem r s i).wq.records = s.wq.records
      ∧ (closeItem r s i).wq.plan = s.wq.plan
      ∧ (closeItem r s i).isc = s.isc
      ∧ (closeItem r s i).de = s.de
      ∧ (closeItem r s i).cp = s.cp
      ∧ (closeItem r s i).shu = s.shu
      ∧ (closeItem r s i).lu = s.lu
      ∧ (closeItem r s i).mlc = s.mlc
      ∧ (closeItem r s i).rti = s.rti
      ∧ (closeItem r s i).pp = s.pp := by
  unfold closeItem
  simp

@[simp] theorem mailBundle_frame (order : OrderSerial) (number : ℕ) (s : State) :
    (mailBundle order number s).clock = s.clock
      ∧ (mailBundle order number s).raceCount = s.raceCount
      ∧ (mailBundle order number s).pending = s.pending
      ∧ (mailBundle order number s).cfl = s.cfl
      ∧ (mailBundle order number s).fli.butQueue = s.fli.butQueue
      ∧ (mailBundle order number s).au = s.au
      ∧ (mailBundle order number s).isc = s.isc
      ∧ (mailBundle order number s).de = s.de
      ∧ (mailBundle order number s).lu = s.lu
      ∧ (mailBundle order number s).mlc = s.mlc
      ∧ (mailBundle order number s).rti = s.rti
      ∧ (mailBundle order number s).pp.butEvents = s.pp.butEvents := by
  unfold mailBundle
  repeat' split
  all_goals simp

@[simp] theorem noteEntered_frame (order : OrderSerial) (tag : LoanTag) (items : List ℕ) (s : State) :
    (noteEntered order tag items s).clock = s.clock
      ∧ (noteEntered order tag items s).raceCount = s.raceCount
      ∧ (noteEntered order tag items s).pending = s.pending
      ∧ (noteEntered order tag items s).cfl = s.cfl
      ∧ (noteEntered order tag items s).fli = s.fli
      ∧ (noteEntered order tag items s).au = s.au
      ∧ (noteEntered order tag items s).wq.plan = s.wq.plan
      ∧ (noteEntered order tag items s).isc = s.isc
      ∧ (noteEntered order tag items s).de = s.de
      ∧ (noteEntered order tag items s).cp = s.cp
      ∧ (noteEntered order tag items s).shu = s.shu
      ∧ (noteEntered order tag items s).lu = s.lu
      ∧ (noteEntered order tag items s).mlc = s.mlc
      ∧ (noteEntered order tag items s).rti = s.rti
      ∧ (noteEntered order tag items s).pp = s.pp := by
  unfold noteEntered
  simp

@[simp] theorem failOnCart_frame (item : ℕ) (s : State) (slot : ℕ) :
    (failOnCart item s slot).clock = s.clock
      ∧ (failOnCart item s slot).raceCount = s.raceCount
      ∧ (failOnCart item s slot).pending = s.pending
      ∧ (failOnCart item s slot).cfl = s.cfl
      ∧ (failOnCart item s slot).fli = s.fli
      ∧ (failOnCart item s slot).au = s.au
      ∧ (failOnCart item s slot).wq.records = s.wq.records
      ∧ (failOnCart item s slot).isc = s.isc
      ∧ (failOnCart item s slot).shu = s.shu
      ∧ (failOnCart item s slot).lu = s.lu
      ∧ (failOnCart item s slot).mlc = s.mlc
      ∧ (failOnCart item s slot).rti = s.rti
      ∧ (failOnCart item s slot).pp = s.pp := by
  unfold failOnCart
  repeat' split
  all_goals simp

@[simp] theorem closeUp_frame (s : State) (slot : ℕ) :
    (closeUp s slot).clock = s.clock
      ∧ (closeUp s slot).raceCount = s.raceCount
      ∧ (closeUp s slot).pending = s.pending
      ∧ (closeUp s slot).cfl = s.cfl
      ∧ (closeUp s slot).fli = s.fli
      ∧ (closeUp s slot).au = s.au
      ∧ (closeUp s slot).wq.records = s.wq.records
      ∧ (closeUp s slot).isc = s.isc
      ∧ (closeUp s slot).de = s.de
      ∧ (closeUp s slot).shu = s.shu
      ∧ (closeUp s slot).lu = s.lu
      ∧ (closeUp s slot).mlc = s.mlc
      ∧ (closeUp s slot).rti = s.rti
      ∧ (closeUp s slot).pp = s.pp := by
  unfold closeUp
  split <;> simp

@[simp] theorem failItem_frame (order : OrderSerial) (item : ℕ) (s : State) :
    (failItem order item s).clock = s.clock
      ∧ (failItem order item s).raceCount = s.raceCount
      ∧ (failItem order item s).pending = s.pending
      ∧ (failItem order item s).cfl = s.cfl
      ∧ (failItem order item s).fli.butQueue = s.fli.butQueue
      ∧ (failItem order item s).au = s.au
      ∧ (failItem order item s).isc = s.isc
      ∧ (failItem order item s).lu = s.lu
      ∧ (failItem order item s).mlc = s.mlc
      ∧ (failItem order item s).rti = s.rti
      ∧ (failItem order item s).pp.butEvents = s.pp.butEvents := by
  unfold failItem
  simp

@[simp] theorem failImage_frame (name : ImageName) (s : State) :
    (failImage name s).clock = s.clock
      ∧ (failImage name s).raceCount = s.raceCount
      ∧ (failImage name s).pending = s.pending
      ∧ (failImage name s).cfl = s.cfl
      ∧ (failImage name s).fli.butQueue = s.fli.butQueue
      ∧ (failImage name s).au = s.au
      ∧ (failImage name s).isc = s.isc
      ∧ (failImage name s).lu = s.lu
      ∧ (failImage name s).mlc = s.mlc
      ∧ (failImage name s).rti = s.rti
      ∧ (failImage name s).pp.butEvents = s.pp.butEvents := by
  unfold failImage
  simp

@[simp] theorem replan_frame (order : OrderSerial) (item : ℕ) (size : ℕ) (s : State) :
    (replan order item size s).clock = s.clock
      ∧ (replan order item size s).raceCount = s.raceCount
      ∧ (replan order item size s).pending = s.pending
      ∧ (replan order item size s).cfl = s.cfl
      ∧ (replan order item size s).fli.butQueue = s.fli.butQueue
      ∧ (replan order item size s).au = s.au
      ∧ (replan order item size s).isc = s.isc
      ∧ (replan order item size s).lu = s.lu
      ∧ (replan order item size s).mlc = s.mlc
      ∧ (replan order item size s).rti = s.rti
      ∧ (replan order item size s).pp.butEvents = s.pp.butEvents := by
  unfold replan
  split <;> simp

@[simp] theorem resizeItem_frame (size : ℕ) (s : State) (x2 : OrderSerial × WorkItem) :
    (resizeItem size s x2).clock = s.clock
      ∧ (resizeItem size s x2).raceCount = s.raceCount
      ∧ (resizeItem size s x2).pending = s.pending
      ∧ (resizeItem size s x2).cfl = s.cfl
      ∧ (resizeItem size s x2).fli.butQueue = s.fli.butQueue
      ∧ (resizeItem size s x2).au = s.au
      ∧ (resizeItem size s x2).isc = s.isc
      ∧ (resizeItem size s x2).lu = s.lu
      ∧ (resizeItem size s x2).mlc = s.mlc
      ∧ (resizeItem size s x2).rti = s.rti
      ∧ (resizeItem size s x2).pp.butEvents = s.pp.butEvents := by
  unfold resizeItem
  simp

@[simp] theorem reportSize_frame (name : ImageName) (size : ℕ) (s : State) :
    (reportSize name size s).clock = s.clock
      ∧ (reportSize name size s).raceCount = s.raceCount
      ∧ (reportSize name size s).pending = s.pending
      ∧ (reportSize name size s).cfl = s.cfl
      ∧ (reportSize name size s).fli.butQueue = s.fli.butQueue
      ∧ (reportSize name size s).au = s.au
      ∧ (reportSize name size s).isc = s.isc
      ∧ (reportSize name size s).lu = s.lu
      ∧ (reportSize name size s).mlc = s.mlc
      ∧ (reportSize name size s).rti = s.rti
      ∧ (reportSize name size s).pp.butEvents = s.pp.butEvents := by
  unfold reportSize
  simp

@[simp] theorem takeBraille_frame (order : OrderSerial) (o : Offer) (free : List ℕ) (s : State) (x4 : Item × ℕ) :
    (takeBraille order o free s x4).clock = s.clock
      ∧ (takeBraille order o free s x4).raceCount = s.raceCount
      ∧ (takeBraille order o free s x4).pending = s.pending
      ∧ (takeBraille order o free s x4).cfl = s.cfl
      ∧ (takeBraille order o free s x4).fli = s.fli
      ∧ (takeBraille order o free s x4).au = s.au
      ∧ (takeBraille order o free s x4).wq = s.wq
      ∧ (takeBraille order o free s x4).isc = s.isc
      ∧ (takeBraille order o free s x4).de = s.de
      ∧ (takeBraille order o free s x4).cp = s.cp
      ∧ (takeBraille order o free s x4).lu = s.lu
      ∧ (takeBraille order o free s x4).mlc = s.mlc
      ∧ (takeBraille order o free s x4).rti = s.rti
      ∧ (takeBraille order o free s x4).pp = s.pp := by
  unfold takeBraille
  simp

@[simp] theorem acceptTake_frame (e : AuctionEntry) (s : State) :
    (acceptTake e s).clock = s.clock
      ∧ (acceptTake e s).raceCount = s.raceCount
      ∧ (acceptTake e s).pending = s.pending
      ∧ (acceptTake e s).cfl = s.cfl
      ∧ (acceptTake e s).fli = s.fli
      ∧ (acceptTake e s).au = s.au
      ∧ (acceptTake e s).isc = s.isc
      ∧ (acceptTake e s).cp = s.cp
      ∧ (acceptTake e s).lu = s.lu
      ∧ (acceptTake e s).mlc = s.mlc
      ∧ (acceptTake e s).rti = s.rti
      ∧ (acceptTake e s).pp.butEvents = s.pp.butEvents := by
  unfold acceptTake
  simp

@[simp] theorem giveUpBundle_frame (r : WorkRecord) (s : State) (b : Bundle) :
    (giveUpBundle r s b).clock = s.clock
      ∧ (giveUpBundle r s b).raceCount = s.raceCount
      ∧ (giveUpBundle r s b).pending = s.pending
      ∧ (giveUpBundle r s b).cfl = s.cfl
      ∧ (giveUpBundle r s b).fli = s.fli
      ∧ (giveUpBundle r s b).au = s.au
      ∧ (giveUpBundle r s b).isc = s.isc
      ∧ (giveUpBundle r s b).shu.holds = s.shu.holds
      ∧ (giveUpBundle r s b).lu = s.lu
      ∧ (giveUpBundle r s b).mlc = s.mlc
      ∧ (giveUpBundle r s b).rti = s.rti
      ∧ (giveUpBundle r s b).pp = s.pp := by
  unfold giveUpBundle
  simp

@[simp] theorem endRecord_frame (mark : EndMark) (order : OrderSerial) (s : State) :
    (endRecord mark order s).clock = s.clock
      ∧ (endRecord mark order s).raceCount = s.raceCount
      ∧ (endRecord mark order s).pending = s.pending
      ∧ (endRecord mark order s).cfl = s.cfl
      ∧ (endRecord mark order s).fli.butQueue = s.fli.butQueue
      ∧ (endRecord mark order s).au = s.au
      ∧ (endRecord mark order s).isc = s.isc
      ∧ (endRecord mark order s).lu = s.lu
      ∧ (endRecord mark order s).mlc = s.mlc
      ∧ (endRecord mark order s).rti = s.rti
      ∧ (endRecord mark order s).pp.butEvents = s.pp.butEvents := by
  unfold endRecord
  split <;> simp

@[simp] theorem cancelOrder_frame (order : OrderSerial) (s : State) :
    (cancelOrder order s).clock = s.clock
      ∧ (cancelOrder order s).raceCount = s.raceCount
      ∧ (cancelOrder order s).pending = s.pending
      ∧ (cancelOrder order s).cfl = s.cfl
      ∧ (cancelOrder order s).fli.butQueue = s.fli.butQueue
      ∧ (cancelOrder order s).au = s.au
      ∧ (cancelOrder order s).isc = s.isc
      ∧ (cancelOrder order s).lu = s.lu
      ∧ (cancelOrder order s).mlc = s.mlc
      ∧ (cancelOrder order s).rti = s.rti
      ∧ (cancelOrder order s).pp.butEvents = s.pp.butEvents := by
  unfold cancelOrder
  split <;> simp

@[simp] theorem abandonOrder_frame (order : OrderSerial) (s : State) :
    (abandonOrder order s).clock = s.clock
      ∧ (abandonOrder order s).raceCount = s.raceCount
      ∧ (abandonOrder order s).pending = s.pending
      ∧ (abandonOrder order s).cfl = s.cfl
      ∧ (abandonOrder order s).fli.butQueue = s.fli.butQueue
      ∧ (abandonOrder order s).au = s.au
      ∧ (abandonOrder order s).isc = s.isc
      ∧ (abandonOrder order s).lu = s.lu
      ∧ (abandonOrder order s).mlc = s.mlc
      ∧ (abandonOrder order s).rti = s.rti
      ∧ (abandonOrder order s).pp.butEvents = s.pp.butEvents := by
  unfold abandonOrder
  split <;> simp

@[simp] theorem changeDir_frame (idx : ℕ) (f : DirEntry → DirEntry) (s : State) :
    (changeDir idx f s).clock = s.clock
      ∧ (changeDir idx f s).raceCount = s.raceCount
      ∧ (changeDir idx f s).pending = s.pending
      ∧ (changeDir idx f s).cfl = s.cfl
      ∧ (changeDir idx f s).fli = s.fli
      ∧ (changeDir idx f s).au = s.au
      ∧ (changeDir idx f s).wq = s.wq
      ∧ (changeDir idx f s).isc.store = s.isc.store
      ∧ (changeDir idx f s).isc.crcArea = s.isc.crcArea
      ∧ (changeDir idx f s).de = s.de
      ∧ (changeDir idx f s).cp = s.cp
      ∧ (changeDir idx f s).shu = s.shu
      ∧ (changeDir idx f s).lu = s.lu
      ∧ (changeDir idx f s).mlc = s.mlc
      ∧ (changeDir idx f s).rti = s.rti
      ∧ (changeDir idx f s).pp = s.pp := by
  unfold changeDir
  simp

@[simp] theorem setServe_frame (x : StreamNo) (v : Option ServeStream) (s : State) :
    (setServe x v s).clock = s.clock
      ∧ (setServe x v s).raceCount = s.raceCount
      ∧ (setServe x v s).pending = s.pending
      ∧ (setServe x v s).cfl = s.cfl
      ∧ (setServe x v s).fli = s.fli
      ∧ (setServe x v s).au = s.au
      ∧ (setServe x v s).wq = s.wq
      ∧ (setServe x v s).isc.directory = s.isc.directory
      ∧ (setServe x v s).isc.store = s.isc.store
      ∧ (setServe x v s).isc.crcArea = s.isc.crcArea
      ∧ (setServe x v s).de = s.de
      ∧ (setServe x v s).cp = s.cp
      ∧ (setServe x v s).shu = s.shu
      ∧ (setServe x v s).lu = s.lu
      ∧ (setServe x v s).mlc = s.mlc
      ∧ (setServe x v s).rti = s.rti
      ∧ (setServe x v s).pp = s.pp := by
  unfold setServe
  simp

@[simp] theorem setFetch_frame (x : StreamNo) (v : FetchStream) (s : State) :
    (setFetch x v s).clock = s.clock
      ∧ (setFetch x v s).raceCount = s.raceCount
      ∧ (setFetch x v s).pending = s.pending
      ∧ (setFetch x v s).cfl = s.cfl
      ∧ (setFetch x v s).fli = s.fli
      ∧ (setFetch x v s).au = s.au
      ∧ (setFetch x v s).wq = s.wq
      ∧ (setFetch x v s).isc.directory = s.isc.directory
      ∧ (setFetch x v s).isc.store = s.isc.store
      ∧ (setFetch x v s).isc.crcArea = s.isc.crcArea
      ∧ (setFetch x v s).de = s.de
      ∧ (setFetch x v s).cp = s.cp
      ∧ (setFetch x v s).shu = s.shu
      ∧ (setFetch x v s).lu = s.lu
      ∧ (setFetch x v s).mlc = s.mlc
      ∧ (setFetch x v s).rti = s.rti
      ∧ (setFetch x v s).pp = s.pp := by
  unfold setFetch
  simp

@[simp] theorem discardScrub_frame (idx : ℕ) (s : State) :
    (discardScrub idx s).clock = s.clock
      ∧ (discardScrub idx s).raceCount = s.raceCount
      ∧ (discardScrub idx s).pending = s.pending
      ∧ (discardScrub idx s).cfl = s.cfl
      ∧ (discardScrub idx s).fli = s.fli
      ∧ (discardScrub idx s).au = s.au
      ∧ (discardScrub idx s).wq = s.wq
      ∧ (discardScrub idx s).isc.directory = s.isc.directory
      ∧ (discardScrub idx s).isc.store = s.isc.store
      ∧ (discardScrub idx s).isc.crcArea = s.isc.crcArea
      ∧ (discardScrub idx s).de = s.de
      ∧ (discardScrub idx s).cp = s.cp
      ∧ (discardScrub idx s).shu = s.shu
      ∧ (discardScrub idx s).lu = s.lu
      ∧ (discardScrub idx s).mlc = s.mlc
      ∧ (discardScrub idx s).rti = s.rti
      ∧ (discardScrub idx s).pp = s.pp := by
  unfold discardScrub
  simp

@[simp] theorem freeEntry_frame (idx : ℕ) (s : State) :
    (freeEntry idx s).clock = s.clock
      ∧ (freeEntry idx s).raceCount = s.raceCount
      ∧ (freeEntry idx s).pending = s.pending
      ∧ (freeEntry idx s).cfl = s.cfl
      ∧ (freeEntry idx s).fli = s.fli
      ∧ (freeEntry idx s).au = s.au
      ∧ (freeEntry idx s).wq = s.wq
      ∧ (freeEntry idx s).isc.store = s.isc.store
      ∧ (freeEntry idx s).isc.crcArea = s.isc.crcArea
      ∧ (freeEntry idx s).de = s.de
      ∧ (freeEntry idx s).cp = s.cp
      ∧ (freeEntry idx s).shu = s.shu
      ∧ (freeEntry idx s).lu = s.lu
      ∧ (freeEntry idx s).mlc = s.mlc
      ∧ (freeEntry idx s).rti = s.rti
      ∧ (freeEntry idx s).pp = s.pp := by
  unfold freeEntry
  simp

@[simp] theorem evictUntil_frame (n : Nat) (l : List Nat) (s : State) :
    (evictUntil n l s).clock = s.clock
      ∧ (evictUntil n l s).raceCount = s.raceCount
      ∧ (evictUntil n l s).pending = s.pending
      ∧ (evictUntil n l s).cfl = s.cfl
      ∧ (evictUntil n l s).fli = s.fli
      ∧ (evictUntil n l s).au = s.au
      ∧ (evictUntil n l s).wq = s.wq
      ∧ (evictUntil n l s).isc.store = s.isc.store
      ∧ (evictUntil n l s).isc.crcArea = s.isc.crcArea
      ∧ (evictUntil n l s).de = s.de
      ∧ (evictUntil n l s).cp = s.cp
      ∧ (evictUntil n l s).shu = s.shu
      ∧ (evictUntil n l s).lu = s.lu
      ∧ (evictUntil n l s).mlc = s.mlc
      ∧ (evictUntil n l s).rti = s.rti
      ∧ (evictUntil n l s).pp = s.pp := by
  induction l generalizing s with
  | nil => simp [evictUntil]
  | cons a l ih =>
    unfold evictUntil
    split
    · simp
    · simp [ih]

theorem allocate_frame {idx : ℕ} {n : ℕ} {s : State} {s' : State} (h : allocate idx n s = some s') :
    s'.clock = s.clock
      ∧ s'.raceCount = s.raceCount
      ∧ s'.pending = s.pending
      ∧ s'.cfl = s.cfl
      ∧ s'.fli = s.fli
      ∧ s'.au = s.au
      ∧ s'.wq = s.wq
      ∧ s'.isc.store = s.isc.store
      ∧ s'.isc.crcArea = s.isc.crcArea
      ∧ s'.de = s.de
      ∧ s'.cp = s.cp
      ∧ s'.shu = s.shu
      ∧ s'.lu = s.lu
      ∧ s'.mlc = s.mlc
      ∧ s'.rti = s.rti
      ∧ s'.pp = s.pp := by
  unfold allocate at h
  repeat' split at h
  all_goals first | (cases h; simp; done) | cases h

theorem freeIndex_frame {s s' : State} {i : Nat} (h : freeIndex s = some (i, s')) :
    s'.clock = s.clock
      ∧ s'.raceCount = s.raceCount
      ∧ s'.pending = s.pending
      ∧ s'.cfl = s.cfl
      ∧ s'.fli = s.fli
      ∧ s'.au = s.au
      ∧ s'.wq = s.wq
      ∧ s'.de = s.de
      ∧ s'.cp = s.cp
      ∧ s'.shu = s.shu
      ∧ s'.lu = s.lu
      ∧ s'.mlc = s.mlc
      ∧ s'.rti = s.rti
      ∧ s'.pp = s.pp
      ∧ s'.isc.store = s.isc.store
      ∧ s'.isc.crcArea = s.isc.crcArea := by
  unfold freeIndex at h
  split at h
  · cases h
    simp
  · simp only [Option.map_eq_some_iff] at h
    obtain ⟨a, h, e⟩ := h
    cases e
    simp

@[simp] theorem useImage_frame (idx : ℕ) (s : State) :
    (useImage idx s).clock = s.clock
      ∧ (useImage idx s).raceCount = s.raceCount
      ∧ (useImage idx s).pending = s.pending
      ∧ (useImage idx s).cfl = s.cfl
      ∧ (useImage idx s).fli = s.fli
      ∧ (useImage idx s).au = s.au
      ∧ (useImage idx s).wq = s.wq
      ∧ (useImage idx s).isc.store = s.isc.store
      ∧ (useImage idx s).isc.crcArea = s.isc.crcArea
      ∧ (useImage idx s).de = s.de
      ∧ (useImage idx s).cp = s.cp
      ∧ (useImage idx s).shu = s.shu
      ∧ (useImage idx s).lu = s.lu
      ∧ (useImage idx s).mlc = s.mlc
      ∧ (useImage idx s).rti = s.rti
      ∧ (useImage idx s).pp = s.pp := by
  unfold useImage
  simp

@[simp] theorem applyFade_frame (f : StoreFade) (s : State) :
    (applyFade f s).clock = s.clock
      ∧ (applyFade f s).raceCount = s.raceCount
      ∧ (applyFade f s).pending = s.pending
      ∧ (applyFade f s).cfl = s.cfl
      ∧ (applyFade f s).fli = s.fli
      ∧ (applyFade f s).au = s.au
      ∧ (applyFade f s).wq = s.wq
      ∧ (applyFade f s).isc.directory = s.isc.directory
      ∧ (applyFade f s).de = s.de
      ∧ (applyFade f s).cp = s.cp
      ∧ (applyFade f s).shu = s.shu
      ∧ (applyFade f s).lu = s.lu
      ∧ (applyFade f s).mlc = s.mlc
      ∧ (applyFade f s).rti = s.rti
      ∧ (applyFade f s).pp = s.pp := by
  unfold applyFade
  simp

@[simp] theorem discardFetch_frame (name : Option ImageName) (s : State) :
    (discardFetch name s).clock = s.clock
      ∧ (discardFetch name s).raceCount = s.raceCount
      ∧ (discardFetch name s).pending = s.pending
      ∧ (discardFetch name s).cfl = s.cfl
      ∧ (discardFetch name s).fli = s.fli
      ∧ (discardFetch name s).au = s.au
      ∧ (discardFetch name s).wq = s.wq
      ∧ (discardFetch name s).isc.directory = s.isc.directory
      ∧ (discardFetch name s).isc.store = s.isc.store
      ∧ (discardFetch name s).isc.crcArea = s.isc.crcArea
      ∧ (discardFetch name s).de = s.de
      ∧ (discardFetch name s).cp = s.cp
      ∧ (discardFetch name s).shu = s.shu
      ∧ (discardFetch name s).lu = s.lu
      ∧ (discardFetch name s).mlc = s.mlc
      ∧ (discardFetch name s).rti = s.rti
      ∧ (discardFetch name s).pp = s.pp := by
  unfold discardFetch
  split <;> simp

@[simp] theorem stopFetch_frame (x : StreamNo) (s : State) :
    (stopFetch x s).clock = s.clock
      ∧ (stopFetch x s).raceCount = s.raceCount
      ∧ (stopFetch x s).pending = s.pending
      ∧ (stopFetch x s).cfl = s.cfl
      ∧ (stopFetch x s).fli = s.fli
      ∧ (stopFetch x s).au = s.au
      ∧ (stopFetch x s).wq = s.wq
      ∧ (stopFetch x s).isc.store = s.isc.store
      ∧ (stopFetch x s).isc.crcArea = s.isc.crcArea
      ∧ (stopFetch x s).de = s.de
      ∧ (stopFetch x s).cp = s.cp
      ∧ (stopFetch x s).shu = s.shu
      ∧ (stopFetch x s).lu = s.lu
      ∧ (stopFetch x s).mlc = s.mlc
      ∧ (stopFetch x s).rti = s.rti
      ∧ (stopFetch x s).pp = s.pp := by
  unfold stopFetch
  dsimp only
  split <;> simp

@[simp] theorem unobtainable_frame (x : StreamNo) (s : State) :
    (unobtainable x s).clock = s.clock
      ∧ (unobtainable x s).raceCount = s.raceCount
      ∧ (unobtainable x s).pending = s.pending
      ∧ (unobtainable x s).cfl = s.cfl
      ∧ (unobtainable x s).fli.butQueue = s.fli.butQueue
      ∧ (unobtainable x s).au = s.au
      ∧ (unobtainable x s).isc.store = s.isc.store
      ∧ (unobtainable x s).isc.crcArea = s.isc.crcArea
      ∧ (unobtainable x s).lu = s.lu
      ∧ (unobtainable x s).mlc = s.mlc
      ∧ (unobtainable x s).rti = s.rti
      ∧ (unobtainable x s).pp.butEvents = s.pp.butEvents := by
  unfold unobtainable
  split <;> simp

@[simp] theorem ask_frame (x : StreamNo) (s : State) :
    (ask x s).clock = s.clock
      ∧ (ask x s).raceCount = s.raceCount
      ∧ (ask x s).pending = s.pending
      ∧ (ask x s).cfl = s.cfl
      ∧ (ask x s).fli.butQueue = s.fli.butQueue
      ∧ (ask x s).au = s.au
      ∧ (ask x s).wq = s.wq
      ∧ (ask x s).isc.directory = s.isc.directory
      ∧ (ask x s).isc.store = s.isc.store
      ∧ (ask x s).isc.crcArea = s.isc.crcArea
      ∧ (ask x s).de = s.de
      ∧ (ask x s).cp = s.cp
      ∧ (ask x s).shu = s.shu
      ∧ (ask x s).lu = s.lu
      ∧ (ask x s).mlc = s.mlc
      ∧ (ask x s).rti = s.rti
      ∧ (ask x s).pp = s.pp := by
  unfold ask
  split <;> simp

@[simp] theorem nextSource_frame (x : StreamNo) (s : State) :
    (nextSource x s).clock = s.clock
      ∧ (nextSource x s).raceCount = s.raceCount
      ∧ (nextSource x s).pending = s.pending
      ∧ (nextSource x s).cfl = s.cfl
      ∧ (nextSource x s).fli.butQueue = s.fli.butQueue
      ∧ (nextSource x s).au = s.au
      ∧ (nextSource x s).isc.store = s.isc.store
      ∧ (nextSource x s).isc.crcArea = s.isc.crcArea
      ∧ (nextSource x s).lu = s.lu
      ∧ (nextSource x s).mlc = s.mlc
      ∧ (nextSource x s).rti = s.rti
      ∧ (nextSource x s).pp.butEvents = s.pp.butEvents := by
  unfold nextSource
  repeat' split
  all_goals simp

@[simp] theorem failStream_frame (x : StreamNo) (s : State) :
    (failStream x s).clock = s.clock
      ∧ (failStream x s).raceCount = s.raceCount
      ∧ (failStream x s).pending = s.pending
      ∧ (failStream x s).cfl = s.cfl
      ∧ (failStream x s).fli.butQueue = s.fli.butQueue
      ∧ (failStream x s).au = s.au
      ∧ (failStream x s).isc.store = s.isc.store
      ∧ (failStream x s).isc.crcArea = s.isc.crcArea
      ∧ (failStream x s).lu = s.lu
      ∧ (failStream x s).mlc = s.mlc
      ∧ (failStream x s).rti = s.rti
      ∧ (failStream x s).pp.butEvents = s.pp.butEvents := by
  unfold failStream
  split <;> simp

@[simp] theorem takeUp_frame (x : StreamNo) (n : ImageName) (s : State) :
    (takeUp x n s).clock = s.clock
      ∧ (takeUp x n s).raceCount = s.raceCount
      ∧ (takeUp x n s).pending = s.pending
      ∧ (takeUp x n s).cfl = s.cfl
      ∧ (takeUp x n s).au = s.au
      ∧ (takeUp x n s).wq = s.wq
      ∧ (takeUp x n s).de = s.de
      ∧ (takeUp x n s).cp = s.cp
      ∧ (takeUp x n s).shu = s.shu
      ∧ (takeUp x n s).lu = s.lu
      ∧ (takeUp x n s).mlc = s.mlc
      ∧ (takeUp x n s).rti = s.rti
      ∧ (takeUp x n s).pp = s.pp
      ∧ (takeUp x n s).fli.butQueue = s.fli.butQueue
      ∧ (takeUp x n s).isc.store = s.isc.store
      ∧ (takeUp x n s).isc.crcArea = s.isc.crcArea := by
  unfold takeUp
  dsimp only
  split
  · simp
  · split
    · rename_i h
      simp [freeIndex_frame h]
    · simp

@[simp] theorem retryWaiting_frame (s : State) (x : StreamNo) :
    (retryWaiting s x).clock = s.clock
      ∧ (retryWaiting s x).raceCount = s.raceCount
      ∧ (retryWaiting s x).pending = s.pending
      ∧ (retryWaiting s x).cfl = s.cfl
      ∧ (retryWaiting s x).fli.butQueue = s.fli.butQueue
      ∧ (retryWaiting s x).au = s.au
      ∧ (retryWaiting s x).isc.store = s.isc.store
      ∧ (retryWaiting s x).isc.crcArea = s.isc.crcArea
      ∧ (retryWaiting s x).lu = s.lu
      ∧ (retryWaiting s x).mlc = s.mlc
      ∧ (retryWaiting s x).rti = s.rti
      ∧ (retryWaiting s x).pp.butEvents = s.pp.butEvents := by
  unfold retryWaiting
  dsimp only
  split
  · simp
  · split
    · simp
    · split
      · rename_i h
        simp [allocate_frame h]
      · simp
    · simp

@[simp] theorem stopUnwanted_frame (s : State) (x1 : StreamNo) :
    (stopUnwanted s x1).clock = s.clock
      ∧ (stopUnwanted s x1).raceCount = s.raceCount
      ∧ (stopUnwanted s x1).pending = s.pending
      ∧ (stopUnwanted s x1).cfl = s.cfl
      ∧ (stopUnwanted s x1).fli = s.fli
      ∧ (stopUnwanted s x1).au = s.au
      ∧ (stopUnwanted s x1).wq = s.wq
      ∧ (stopUnwanted s x1).isc.store = s.isc.store
      ∧ (stopUnwanted s x1).isc.crcArea = s.isc.crcArea
      ∧ (stopUnwanted s x1).de = s.de
      ∧ (stopUnwanted s x1).cp = s.cp
      ∧ (stopUnwanted s x1).shu = s.shu
      ∧ (stopUnwanted s x1).lu = s.lu
      ∧ (stopUnwanted s x1).mlc = s.mlc
      ∧ (stopUnwanted s x1).rti = s.rti
      ∧ (stopUnwanted s x1).pp = s.pp := by
  unfold stopUnwanted
  split <;> simp

@[simp] theorem freeDamaged_frame (s : State) :
    (freeDamaged s).clock = s.clock
      ∧ (freeDamaged s).raceCount = s.raceCount
      ∧ (freeDamaged s).pending = s.pending
      ∧ (freeDamaged s).cfl = s.cfl
      ∧ (freeDamaged s).fli = s.fli
      ∧ (freeDamaged s).au = s.au
      ∧ (freeDamaged s).wq = s.wq
      ∧ (freeDamaged s).isc.store = s.isc.store
      ∧ (freeDamaged s).isc.crcArea = s.isc.crcArea
      ∧ (freeDamaged s).de = s.de
      ∧ (freeDamaged s).cp = s.cp
      ∧ (freeDamaged s).shu = s.shu
      ∧ (freeDamaged s).lu = s.lu
      ∧ (freeDamaged s).mlc = s.mlc
      ∧ (freeDamaged s).rti = s.rti
      ∧ (freeDamaged s).pp = s.pp := by
  unfold freeDamaged
  simp

@[simp] theorem walkIdle_frame (s : State) (x1 : StreamNo) :
    (walkIdle s x1).clock = s.clock
      ∧ (walkIdle s x1).raceCount = s.raceCount
      ∧ (walkIdle s x1).pending = s.pending
      ∧ (walkIdle s x1).cfl = s.cfl
      ∧ (walkIdle s x1).fli.butQueue = s.fli.butQueue
      ∧ (walkIdle s x1).au = s.au
      ∧ (walkIdle s x1).wq = s.wq
      ∧ (walkIdle s x1).isc.store = s.isc.store
      ∧ (walkIdle s x1).isc.crcArea = s.isc.crcArea
      ∧ (walkIdle s x1).de = s.de
      ∧ (walkIdle s x1).cp = s.cp
      ∧ (walkIdle s x1).shu = s.shu
      ∧ (walkIdle s x1).lu = s.lu
      ∧ (walkIdle s x1).mlc = s.mlc
      ∧ (walkIdle s x1).rti = s.rti
      ∧ (walkIdle s x1).pp = s.pp := by
  unfold walkIdle
  repeat' split
  all_goals simp

@[simp] theorem settleStore_frame (s : State) :
    (settleStore s).clock = s.clock
      ∧ (settleStore s).raceCount = s.raceCount
      ∧ (settleStore s).pending = s.pending
      ∧ (settleStore s).cfl = s.cfl
      ∧ (settleStore s).fli.butQueue = s.fli.butQueue
      ∧ (settleStore s).au = s.au
      ∧ (settleStore s).isc.store = s.isc.store
      ∧ (settleStore s).isc.crcArea = s.isc.crcArea
      ∧ (settleStore s).lu = s.lu
      ∧ (settleStore s).mlc = s.mlc
      ∧ (settleStore s).rti = s.rti
      ∧ (settleStore s).pp.butEvents = s.pp.butEvents := by
  unfold settleStore
  simp

@[simp] theorem restartSilence_frame (x : StreamNo) (s : State) :
    (restartSilence x s).clock = s.clock
      ∧ (restartSilence x s).raceCount = s.raceCount
      ∧ (restartSilence x s).pending = s.pending
      ∧ (restartSilence x s).cfl = s.cfl
      ∧ (restartSilence x s).fli = s.fli
      ∧ (restartSilence x s).au = s.au
      ∧ (restartSilence x s).wq = s.wq
      ∧ (restartSilence x s).isc.directory = s.isc.directory
      ∧ (restartSilence x s).isc.store = s.isc.store
      ∧ (restartSilence x s).isc.crcArea = s.isc.crcArea
      ∧ (restartSilence x s).de = s.de
      ∧ (restartSilence x s).cp = s.cp
      ∧ (restartSilence x s).shu = s.shu
      ∧ (restartSilence x s).lu = s.lu
      ∧ (restartSilence x s).mlc = s.mlc
      ∧ (restartSilence x s).rti = s.rti
      ∧ (restartSilence x s).pp = s.pp := by
  unfold restartSilence
  simp

@[simp] theorem openRun_frame (x : StreamNo) (size : ℕ) (s : State) :
    (openRun x size s).clock = s.clock
      ∧ (openRun x size s).raceCount = s.raceCount
      ∧ (openRun x size s).pending = s.pending
      ∧ (openRun x size s).cfl = s.cfl
      ∧ (openRun x size s).fli = s.fli
      ∧ (openRun x size s).au = s.au
      ∧ (openRun x size s).wq = s.wq
      ∧ (openRun x size s).isc.directory = s.isc.directory
      ∧ (openRun x size s).isc.store = s.isc.store
      ∧ (openRun x size s).isc.crcArea = s.isc.crcArea
      ∧ (openRun x size s).de = s.de
      ∧ (openRun x size s).cp = s.cp
      ∧ (openRun x size s).shu = s.shu
      ∧ (openRun x size s).lu = s.lu
      ∧ (openRun x size s).mlc = s.mlc
      ∧ (openRun x size s).rti = s.rti
      ∧ (openRun x size s).pp = s.pp := by
  unfold openRun
  simp

@[simp] theorem setSize_frame (x : StreamNo) (i : Nat) (n : ImageName) (z : Nat) (s : State) :
    (setSize x i n z s).clock = s.clock
      ∧ (setSize x i n z s).raceCount = s.raceCount
      ∧ (setSize x i n z s).pending = s.pending
      ∧ (setSize x i n z s).cfl = s.cfl
      ∧ (setSize x i n z s).fli.butQueue = s.fli.butQueue
      ∧ (setSize x i n z s).au = s.au
      ∧ (setSize x i n z s).isc.store = s.isc.store
      ∧ (setSize x i n z s).isc.crcArea = s.isc.crcArea
      ∧ (setSize x i n z s).lu = s.lu
      ∧ (setSize x i n z s).mlc = s.mlc
      ∧ (setSize x i n z s).rti = s.rti
      ∧ (setSize x i n z s).pp.butEvents = s.pp.butEvents := by
  unfold setSize
  dsimp only
  split
  · simp
  · split
    · simp
    · split
      · rename_i h
        simp [allocate_frame h]
      · simp

@[simp] theorem sourceLacks_frame (x : StreamNo) (s : State) :
    (sourceLacks x s).clock = s.clock
      ∧ (sourceLacks x s).raceCount = s.raceCount
      ∧ (sourceLacks x s).pending = s.pending
      ∧ (sourceLacks x s).cfl = s.cfl
      ∧ (sourceLacks x s).fli.butQueue = s.fli.butQueue
      ∧ (sourceLacks x s).au = s.au
      ∧ (sourceLacks x s).isc.store = s.isc.store
      ∧ (sourceLacks x s).isc.crcArea = s.isc.crcArea
      ∧ (sourceLacks x s).lu = s.lu
      ∧ (sourceLacks x s).mlc = s.mlc
      ∧ (sourceLacks x s).rti = s.rti
      ∧ (sourceLacks x s).pp.butEvents = s.pp.butEvents := by
  unfold sourceLacks
  simp

@[simp] theorem sourceBusy_frame (x : StreamNo) (source : Station) (s : State) :
    (sourceBusy x source s).clock = s.clock
      ∧ (sourceBusy x source s).raceCount = s.raceCount
      ∧ (sourceBusy x source s).pending = s.pending
      ∧ (sourceBusy x source s).cfl = s.cfl
      ∧ (sourceBusy x source s).fli.butQueue = s.fli.butQueue
      ∧ (sourceBusy x source s).au = s.au
      ∧ (sourceBusy x source s).isc.store = s.isc.store
      ∧ (sourceBusy x source s).isc.crcArea = s.isc.crcArea
      ∧ (sourceBusy x source s).lu = s.lu
      ∧ (sourceBusy x source s).mlc = s.mlc
      ∧ (sourceBusy x source s).rti = s.rti
      ∧ (sourceBusy x source s).pp.butEvents = s.pp.butEvents := by
  unfold sourceBusy
  simp

@[simp] theorem actOnInfo_frame (x : StreamNo) (i : ℕ) (e : DirEntry) (f : Received) (st : InfoStatus) (s : State) :
    (actOnInfo x i e f st s).clock = s.clock
      ∧ (actOnInfo x i e f st s).raceCount = s.raceCount
      ∧ (actOnInfo x i e f st s).pending = s.pending
      ∧ (actOnInfo x i e f st s).cfl = s.cfl
      ∧ (actOnInfo x i e f st s).fli.butQueue = s.fli.butQueue
      ∧ (actOnInfo x i e f st s).au = s.au
      ∧ (actOnInfo x i e f st s).isc.store = s.isc.store
      ∧ (actOnInfo x i e f st s).isc.crcArea = s.isc.crcArea
      ∧ (actOnInfo x i e f st s).lu = s.lu
      ∧ (actOnInfo x i e f st s).mlc = s.mlc
      ∧ (actOnInfo x i e f st s).rti = s.rti
      ∧ (actOnInfo x i e f st s).pp.butEvents = s.pp.butEvents := by
  unfold actOnInfo
  split <;> simp

@[simp] theorem infoAt_frame (f : Received) (s : State) (x2 : StreamNo) :
    (infoAt f s x2).clock = s.clock
      ∧ (infoAt f s x2).raceCount = s.raceCount
      ∧ (infoAt f s x2).pending = s.pending
      ∧ (infoAt f s x2).cfl = s.cfl
      ∧ (infoAt f s x2).fli.butQueue = s.fli.butQueue
      ∧ (infoAt f s x2).au = s.au
      ∧ (infoAt f s x2).isc.store = s.isc.store
      ∧ (infoAt f s x2).isc.crcArea = s.isc.crcArea
      ∧ (infoAt f s x2).lu = s.lu
      ∧ (infoAt f s x2).mlc = s.mlc
      ∧ (infoAt f s x2).rti = s.rti
      ∧ (infoAt f s x2).pp.butEvents = s.pp.butEvents := by
  unfold infoAt
  dsimp only
  repeat' split
  all_goals simp

@[simp] theorem hearInfo_frame (f : Received) (s : State) :
    (hearInfo f s).clock = s.clock
      ∧ (hearInfo f s).raceCount = s.raceCount
      ∧ (hearInfo f s).pending = s.pending
      ∧ (hearInfo f s).cfl = s.cfl
      ∧ (hearInfo f s).fli.butQueue = s.fli.butQueue
      ∧ (hearInfo f s).au = s.au
      ∧ (hearInfo f s).isc.store = s.isc.store
      ∧ (hearInfo f s).isc.crcArea = s.isc.crcArea
      ∧ (hearInfo f s).lu = s.lu
      ∧ (hearInfo f s).mlc = s.mlc
      ∧ (hearInfo f s).rti = s.rti
      ∧ (hearInfo f s).pp.butEvents = s.pp.butEvents := by
  unfold hearInfo
  simp

@[simp] theorem countGuard_frame (s : State) :
    (countGuard s).clock = s.clock
      ∧ (countGuard s).raceCount = s.raceCount
      ∧ (countGuard s).pending = s.pending
      ∧ (countGuard s).cfl = s.cfl
      ∧ (countGuard s).fli = s.fli
      ∧ (countGuard s).au = s.au
      ∧ (countGuard s).wq = s.wq
      ∧ (countGuard s).isc.directory = s.isc.directory
      ∧ (countGuard s).isc.store = s.isc.store
      ∧ (countGuard s).isc.crcArea = s.isc.crcArea
      ∧ (countGuard s).de = s.de
      ∧ (countGuard s).cp = s.cp
      ∧ (countGuard s).shu = s.shu
      ∧ (countGuard s).lu = s.lu
      ∧ (countGuard s).mlc = s.mlc
      ∧ (countGuard s).rti = s.rti
      ∧ (countGuard s).pp = s.pp := by
  unfold countGuard
  simp

@[simp] theorem acceptSlice_frame (x : StreamNo) (f : Received) (s : State) :
    (acceptSlice x f s).clock = s.clock
      ∧ (acceptSlice x f s).raceCount = s.raceCount
      ∧ (acceptSlice x f s).pending = s.pending
      ∧ (acceptSlice x f s).cfl = s.cfl
      ∧ (acceptSlice x f s).fli.butQueue = s.fli.butQueue
      ∧ (acceptSlice x f s).au = s.au
      ∧ (acceptSlice x f s).isc.store = s.isc.store
      ∧ (acceptSlice x f s).isc.crcArea = s.isc.crcArea
      ∧ (acceptSlice x f s).lu = s.lu
      ∧ (acceptSlice x f s).mlc = s.mlc
      ∧ (acceptSlice x f s).rti = s.rti
      ∧ (acceptSlice x f s).pp.butEvents = s.pp.butEvents := by
  unfold acceptSlice
  simp

@[simp] theorem imageAt_frame (f : Received) (s : State) (x2 : StreamNo) :
    (imageAt f s x2).clock = s.clock
      ∧ (imageAt f s x2).raceCount = s.raceCount
      ∧ (imageAt f s x2).pending = s.pending
      ∧ (imageAt f s x2).cfl = s.cfl
      ∧ (imageAt f s x2).fli.butQueue = s.fli.butQueue
      ∧ (imageAt f s x2).au = s.au
      ∧ (imageAt f s x2).isc.store = s.isc.store
      ∧ (imageAt f s x2).isc.crcArea = s.isc.crcArea
      ∧ (imageAt f s x2).lu = s.lu
      ∧ (imageAt f s x2).mlc = s.mlc
      ∧ (imageAt f s x2).rti = s.rti
      ∧ (imageAt f s x2).pp.butEvents = s.pp.butEvents := by
  unfold imageAt
  dsimp only
  repeat' split
  all_goals simp

@[simp] theorem hearImage_frame (f : Received) (s : State) :
    (hearImage f s).clock = s.clock
      ∧ (hearImage f s).raceCount = s.raceCount
      ∧ (hearImage f s).pending = s.pending
      ∧ (hearImage f s).cfl = s.cfl
      ∧ (hearImage f s).fli.butQueue = s.fli.butQueue
      ∧ (hearImage f s).au = s.au
      ∧ (hearImage f s).isc.store = s.isc.store
      ∧ (hearImage f s).isc.crcArea = s.isc.crcArea
      ∧ (hearImage f s).lu = s.lu
      ∧ (hearImage f s).mlc = s.mlc
      ∧ (hearImage f s).rti = s.rti
      ∧ (hearImage f s).pp.butEvents = s.pp.butEvents := by
  unfold hearImage
  simp

@[simp] theorem imageWhole_frame (x : StreamNo) (i : ℕ) (s : State) :
    (imageWhole x i s).clock = s.clock
      ∧ (imageWhole x i s).raceCount = s.raceCount
      ∧ (imageWhole x i s).pending = s.pending
      ∧ (imageWhole x i s).cfl = s.cfl
      ∧ (imageWhole x i s).fli = s.fli
      ∧ (imageWhole x i s).au = s.au
      ∧ (imageWhole x i s).wq = s.wq
      ∧ (imageWhole x i s).isc.store = s.isc.store
      ∧ (imageWhole x i s).isc.crcArea = s.isc.crcArea
      ∧ (imageWhole x i s).cp = s.cp
      ∧ (imageWhole x i s).shu = s.shu
      ∧ (imageWhole x i s).lu = s.lu
      ∧ (imageWhole x i s).mlc = s.mlc
      ∧ (imageWhole x i s).rti = s.rti
      ∧ (imageWhole x i s).pp = s.pp := by
  unfold imageWhole
  simp

@[simp] theorem sectorDone_frame (x : StreamNo) (i : ℕ) (sector : ℕ) (phys : ℕ) (check : Check32) (s : State) :
    (sectorDone x i sector phys check s).clock = s.clock
      ∧ (sectorDone x i sector phys check s).raceCount = s.raceCount
      ∧ (sectorDone x i sector phys check s).pending = s.pending
      ∧ (sectorDone x i sector phys check s).cfl = s.cfl
      ∧ (sectorDone x i sector phys check s).fli.butQueue = s.fli.butQueue
      ∧ (sectorDone x i sector phys check s).au = s.au
      ∧ (sectorDone x i sector phys check s).wq = s.wq
      ∧ (sectorDone x i sector phys check s).isc.store = s.isc.store
      ∧ (sectorDone x i sector phys check s).cp = s.cp
      ∧ (sectorDone x i sector phys check s).shu = s.shu
      ∧ (sectorDone x i sector phys check s).lu = s.lu
      ∧ (sectorDone x i sector phys check s).mlc = s.mlc
      ∧ (sectorDone x i sector phys check s).rti = s.rti
      ∧ (sectorDone x i sector phys check s).pp = s.pp := by
  unfold sectorDone
  dsimp only
  split <;> simp

@[simp] theorem sliceWritten_frame (x : StreamNo) (s : State) :
    (sliceWritten x s).clock = s.clock
      ∧ (sliceWritten x s).raceCount = s.raceCount
      ∧ (sliceWritten x s).pending = s.pending
      ∧ (sliceWritten x s).cfl = s.cfl
      ∧ (sliceWritten x s).fli.butQueue = s.fli.butQueue
      ∧ (sliceWritten x s).au = s.au
      ∧ (sliceWritten x s).wq = s.wq
      ∧ (sliceWritten x s).cp = s.cp
      ∧ (sliceWritten x s).shu = s.shu
      ∧ (sliceWritten x s).lu = s.lu
      ∧ (sliceWritten x s).mlc = s.mlc
      ∧ (sliceWritten x s).rti = s.rti
      ∧ (sliceWritten x s).pp = s.pp := by
  unfold sliceWritten
  dsimp only
  repeat' split
  all_goals simp

@[simp] theorem bidCandidates_frame (source : Station) (o : Offer) (images : Byte) (s : State) (x4 : StreamNo) :
    (bidCandidates source o images s x4).clock = s.clock
      ∧ (bidCandidates source o images s x4).raceCount = s.raceCount
      ∧ (bidCandidates source o images s x4).pending = s.pending
      ∧ (bidCandidates source o images s x4).cfl = s.cfl
      ∧ (bidCandidates source o images s x4).fli = s.fli
      ∧ (bidCandidates source o images s x4).au = s.au
      ∧ (bidCandidates source o images s x4).wq = s.wq
      ∧ (bidCandidates source o images s x4).isc.directory = s.isc.directory
      ∧ (bidCandidates source o images s x4).isc.store = s.isc.store
      ∧ (bidCandidates source o images s x4).isc.crcArea = s.isc.crcArea
      ∧ (bidCandidates source o images s x4).de = s.de
      ∧ (bidCandidates source o images s x4).cp = s.cp
      ∧ (bidCandidates source o images s x4).shu = s.shu
      ∧ (bidCandidates source o images s x4).lu = s.lu
      ∧ (bidCandidates source o images s x4).mlc = s.mlc
      ∧ (bidCandidates source o images s x4).rti = s.rti
      ∧ (bidCandidates source o images s x4).pp = s.pp := by
  unfold bidCandidates
  dsimp only
  split <;> simp

@[simp] theorem releasePort_frame (s : State) :
    (releasePort s).clock = s.clock
      ∧ (releasePort s).raceCount = s.raceCount
      ∧ (releasePort s).pending = s.pending
      ∧ (releasePort s).cfl = s.cfl
      ∧ (releasePort s).fli = s.fli
      ∧ (releasePort s).au = s.au
      ∧ (releasePort s).wq = s.wq
      ∧ (releasePort s).isc.directory = s.isc.directory
      ∧ (releasePort s).isc.store = s.isc.store
      ∧ (releasePort s).isc.crcArea = s.isc.crcArea
      ∧ (releasePort s).de = s.de
      ∧ (releasePort s).cp = s.cp
      ∧ (releasePort s).shu = s.shu
      ∧ (releasePort s).lu = s.lu
      ∧ (releasePort s).mlc = s.mlc
      ∧ (releasePort s).rti = s.rti
      ∧ (releasePort s).pp = s.pp := by
  unfold releasePort
  simp

@[simp] theorem endServe_frame (x : StreamNo) (s : State) :
    (endServe x s).clock = s.clock
      ∧ (endServe x s).raceCount = s.raceCount
      ∧ (endServe x s).pending = s.pending
      ∧ (endServe x s).cfl = s.cfl
      ∧ (endServe x s).fli = s.fli
      ∧ (endServe x s).au = s.au
      ∧ (endServe x s).wq = s.wq
      ∧ (endServe x s).isc.directory = s.isc.directory
      ∧ (endServe x s).isc.store = s.isc.store
      ∧ (endServe x s).isc.crcArea = s.isc.crcArea
      ∧ (endServe x s).de = s.de
      ∧ (endServe x s).cp = s.cp
      ∧ (endServe x s).shu = s.shu
      ∧ (endServe x s).lu = s.lu
      ∧ (endServe x s).mlc = s.mlc
      ∧ (endServe x s).rti = s.rti
      ∧ (endServe x s).pp = s.pp := by
  unfold endServe
  split <;> simp

@[simp] theorem offerInfo_frame (peer : Station) (name : ImageName) (size : ℕ) (st : InfoStatus) (s : State) :
    (offerInfo peer name size st s).clock = s.clock
      ∧ (offerInfo peer name size st s).raceCount = s.raceCount
      ∧ (offerInfo peer name size st s).pending = s.pending
      ∧ (offerInfo peer name size st s).cfl = s.cfl
      ∧ (offerInfo peer name size st s).fli.butQueue = s.fli.butQueue
      ∧ (offerInfo peer name size st s).au = s.au
      ∧ (offerInfo peer name size st s).wq = s.wq
      ∧ (offerInfo peer name size st s).isc.directory = s.isc.directory
      ∧ (offerInfo peer name size st s).isc.store = s.isc.store
      ∧ (offerInfo peer name size st s).isc.crcArea = s.isc.crcArea
      ∧ (offerInfo peer name size st s).de = s.de
      ∧ (offerInfo peer name size st s).cp = s.cp
      ∧ (offerInfo peer name size st s).shu = s.shu
      ∧ (offerInfo peer name size st s).lu = s.lu
      ∧ (offerInfo peer name size st s).mlc = s.mlc
      ∧ (offerInfo peer name size st s).rti = s.rti
      ∧ (offerInfo peer name size st s).pp = s.pp := by
  unfold offerInfo
  simp

@[simp] theorem endSameTitle_frame (peer : Station) (title : Title) (s : State) (x3 : StreamNo) :
    (endSameTitle peer title s x3).clock = s.clock
      ∧ (endSameTitle peer title s x3).raceCount = s.raceCount
      ∧ (endSameTitle peer title s x3).pending = s.pending
      ∧ (endSameTitle peer title s x3).cfl = s.cfl
      ∧ (endSameTitle peer title s x3).fli = s.fli
      ∧ (endSameTitle peer title s x3).au = s.au
      ∧ (endSameTitle peer title s x3).wq = s.wq
      ∧ (endSameTitle peer title s x3).isc.directory = s.isc.directory
      ∧ (endSameTitle peer title s x3).isc.store = s.isc.store
      ∧ (endSameTitle peer title s x3).isc.crcArea = s.isc.crcArea
      ∧ (endSameTitle peer title s x3).de = s.de
      ∧ (endSameTitle peer title s x3).cp = s.cp
      ∧ (endSameTitle peer title s x3).shu = s.shu
      ∧ (endSameTitle peer title s x3).lu = s.lu
      ∧ (endSameTitle peer title s x3).mlc = s.mlc
      ∧ (endSameTitle peer title s x3).rti = s.rti
      ∧ (endSameTitle peer title s x3).pp = s.pp := by
  unfold endSameTitle
  simp

@[simp] theorem openServe_frame (x : StreamNo) (peer : Station) (name : ImageName) (i : ℕ) (start : ℕ) (count : ℕ) (size : ℕ) (s : State) :
    (openServe x peer name i start count size s).clock = s.clock
      ∧ (openServe x peer name i start count size s).raceCount = s.raceCount
      ∧ (openServe x peer name i start count size s).pending = s.pending
      ∧ (openServe x peer name i start count size s).cfl = s.cfl
      ∧ (openServe x peer name i start count size s).fli = s.fli
      ∧ (openServe x peer name i start count size s).au = s.au
      ∧ (openServe x peer name i start count size s).wq = s.wq
      ∧ (openServe x peer name i start count size s).isc.store = s.isc.store
      ∧ (openServe x peer name i start count size s).isc.crcArea = s.isc.crcArea
      ∧ (openServe x peer name i start count size s).de = s.de
      ∧ (openServe x peer name i start count size s).cp = s.cp
      ∧ (openServe x peer name i start count size s).shu = s.shu
      ∧ (openServe x peer name i start count size s).lu = s.lu
      ∧ (openServe x peer name i start count size s).mlc = s.mlc
      ∧ (openServe x peer name i start count size s).rti = s.rti
      ∧ (openServe x peer name i start count size s).pp = s.pp := by
  unfold openServe
  simp

@[simp] theorem answerFetch_frame (f : Received) (s : State) :
    (answerFetch f s).clock = s.clock
      ∧ (answerFetch f s).raceCount = s.raceCount
      ∧ (answerFetch f s).pending = s.pending
      ∧ (answerFetch f s).cfl = s.cfl
      ∧ (answerFetch f s).fli.butQueue = s.fli.butQueue
      ∧ (answerFetch f s).au = s.au
      ∧ (answerFetch f s).wq = s.wq
      ∧ (answerFetch f s).isc.store = s.isc.store
      ∧ (answerFetch f s).isc.crcArea = s.isc.crcArea
      ∧ (answerFetch f s).de = s.de
      ∧ (answerFetch f s).cp = s.cp
      ∧ (answerFetch f s).shu = s.shu
      ∧ (answerFetch f s).lu = s.lu
      ∧ (answerFetch f s).mlc = s.mlc
      ∧ (answerFetch f s).rti = s.rti
      ∧ (answerFetch f s).pp = s.pp := by
  unfold answerFetch
  dsimp only
  split
  · split
    · simp
    · split <;> simp
  · split <;> simp

@[simp] theorem hearFetch_frame (f : Received) (s : State) :
    (hearFetch f s).clock = s.clock
      ∧ (hearFetch f s).raceCount = s.raceCount
      ∧ (hearFetch f s).pending = s.pending
      ∧ (hearFetch f s).cfl = s.cfl
      ∧ (hearFetch f s).fli.butQueue = s.fli.butQueue
      ∧ (hearFetch f s).au = s.au
      ∧ (hearFetch f s).wq = s.wq
      ∧ (hearFetch f s).isc.store = s.isc.store
      ∧ (hearFetch f s).isc.crcArea = s.isc.crcArea
      ∧ (hearFetch f s).de = s.de
      ∧ (hearFetch f s).cp = s.cp
      ∧ (hearFetch f s).shu = s.shu
      ∧ (hearFetch f s).lu = s.lu
      ∧ (hearFetch f s).mlc = s.mlc
      ∧ (hearFetch f s).rti = s.rti
      ∧ (hearFetch f s).pp = s.pp := by
  unfold hearFetch
  simp

@[simp] theorem serveRead_frame (x : StreamNo) (s : State) :
    (serveRead x s).clock = s.clock
      ∧ (serveRead x s).raceCount = s.raceCount
      ∧ (serveRead x s).pending = s.pending
      ∧ (serveRead x s).cfl = s.cfl
      ∧ (serveRead x s).fli = s.fli
      ∧ (serveRead x s).au = s.au
      ∧ (serveRead x s).wq = s.wq
      ∧ (serveRead x s).isc.directory = s.isc.directory
      ∧ (serveRead x s).isc.store = s.isc.store
      ∧ (serveRead x s).isc.crcArea = s.isc.crcArea
      ∧ (serveRead x s).de = s.de
      ∧ (serveRead x s).cp = s.cp
      ∧ (serveRead x s).shu = s.shu
      ∧ (serveRead x s).lu = s.lu
      ∧ (serveRead x s).mlc = s.mlc
      ∧ (serveRead x s).rti = s.rti
      ∧ (serveRead x s).pp = s.pp := by
  unfold serveRead
  repeat' split
  all_goals simp

@[simp] theorem serveAdvance_frame (x : StreamNo) (s : State) :
    (serveAdvance x s).clock = s.clock
      ∧ (serveAdvance x s).raceCount = s.raceCount
      ∧ (serveAdvance x s).pending = s.pending
      ∧ (serveAdvance x s).cfl = s.cfl
      ∧ (serveAdvance x s).fli = s.fli
      ∧ (serveAdvance x s).au = s.au
      ∧ (serveAdvance x s).wq = s.wq
      ∧ (serveAdvance x s).isc.directory = s.isc.directory
      ∧ (serveAdvance x s).isc.store = s.isc.store
      ∧ (serveAdvance x s).isc.crcArea = s.isc.crcArea
      ∧ (serveAdvance x s).de = s.de
      ∧ (serveAdvance x s).cp = s.cp
      ∧ (serveAdvance x s).shu = s.shu
      ∧ (serveAdvance x s).lu = s.lu
      ∧ (serveAdvance x s).mlc = s.mlc
      ∧ (serveAdvance x s).rti = s.rti
      ∧ (serveAdvance x s).pp = s.pp := by
  unfold serveAdvance
  split <;> simp

@[simp] theorem infoCompleted_frame (f : Frame) (s : State) (x2 : StreamNo) :
    (infoCompleted f s x2).clock = s.clock
      ∧ (infoCompleted f s x2).raceCount = s.raceCount
      ∧ (infoCompleted f s x2).pending = s.pending
      ∧ (infoCompleted f s x2).cfl = s.cfl
      ∧ (infoCompleted f s x2).fli = s.fli
      ∧ (infoCompleted f s x2).au = s.au
      ∧ (infoCompleted f s x2).wq = s.wq
      ∧ (infoCompleted f s x2).isc.directory = s.isc.directory
      ∧ (infoCompleted f s x2).isc.store = s.isc.store
      ∧ (infoCompleted f s x2).isc.crcArea = s.isc.crcArea
      ∧ (infoCompleted f s x2).de = s.de
      ∧ (infoCompleted f s x2).cp = s.cp
      ∧ (infoCompleted f s x2).shu = s.shu
      ∧ (infoCompleted f s x2).lu = s.lu
      ∧ (infoCompleted f s x2).mlc = s.mlc
      ∧ (infoCompleted f s x2).rti = s.rti
      ∧ (infoCompleted f s x2).pp = s.pp := by
  unfold infoCompleted
  split <;> simp

@[simp] theorem fetchCompleted_frame (f : Frame) (s : State) (x2 : StreamNo) :
    (fetchCompleted f s x2).clock = s.clock
      ∧ (fetchCompleted f s x2).raceCount = s.raceCount
      ∧ (fetchCompleted f s x2).pending = s.pending
      ∧ (fetchCompleted f s x2).cfl = s.cfl
      ∧ (fetchCompleted f s x2).fli = s.fli
      ∧ (fetchCompleted f s x2).au = s.au
      ∧ (fetchCompleted f s x2).wq = s.wq
      ∧ (fetchCompleted f s x2).isc.directory = s.isc.directory
      ∧ (fetchCompleted f s x2).isc.store = s.isc.store
      ∧ (fetchCompleted f s x2).isc.crcArea = s.isc.crcArea
      ∧ (fetchCompleted f s x2).de = s.de
      ∧ (fetchCompleted f s x2).cp = s.cp
      ∧ (fetchCompleted f s x2).shu = s.shu
      ∧ (fetchCompleted f s x2).lu = s.lu
      ∧ (fetchCompleted f s x2).mlc = s.mlc
      ∧ (fetchCompleted f s x2).rti = s.rti
      ∧ (fetchCompleted f s x2).pp = s.pp := by
  unfold fetchCompleted
  simp

@[simp] theorem endDamagedServe_frame (idx : ℕ) (s : State) (x2 : StreamNo) :
    (endDamagedServe idx s x2).clock = s.clock
      ∧ (endDamagedServe idx s x2).raceCount = s.raceCount
      ∧ (endDamagedServe idx s x2).pending = s.pending
      ∧ (endDamagedServe idx s x2).cfl = s.cfl
      ∧ (endDamagedServe idx s x2).fli.butQueue = s.fli.butQueue
      ∧ (endDamagedServe idx s x2).au = s.au
      ∧ (endDamagedServe idx s x2).wq = s.wq
      ∧ (endDamagedServe idx s x2).isc.directory = s.isc.directory
      ∧ (endDamagedServe idx s x2).isc.store = s.isc.store
      ∧ (endDamagedServe idx s x2).isc.crcArea = s.isc.crcArea
      ∧ (endDamagedServe idx s x2).de = s.de
      ∧ (endDamagedServe idx s x2).cp = s.cp
      ∧ (endDamagedServe idx s x2).shu = s.shu
      ∧ (endDamagedServe idx s x2).lu = s.lu
      ∧ (endDamagedServe idx s x2).mlc = s.mlc
      ∧ (endDamagedServe idx s x2).rti = s.rti
      ∧ (endDamagedServe idx s x2).pp = s.pp := by
  unfold endDamagedServe
  split <;> simp

@[simp] theorem damage_frame (i : Nat) (s : State) :
    (damage i s).clock = s.clock
      ∧ (damage i s).raceCount = s.raceCount
      ∧ (damage i s).pending = s.pending
      ∧ (damage i s).cfl = s.cfl
      ∧ (damage i s).fli.butQueue = s.fli.butQueue
      ∧ (damage i s).au = s.au
      ∧ (damage i s).isc.store = s.isc.store
      ∧ (damage i s).isc.crcArea = s.isc.crcArea
      ∧ (damage i s).shu = s.shu
      ∧ (damage i s).lu = s.lu
      ∧ (damage i s).mlc = s.mlc
      ∧ (damage i s).rti = s.rti
      ∧ (damage i s).pp.butEvents = s.pp.butEvents := by
  unfold damage
  dsimp only
  repeat' split
  all_goals simp

@[simp] theorem scrubStart_frame (s : State) :
    (scrubStart s).clock = s.clock
      ∧ (scrubStart s).raceCount = s.raceCount
      ∧ (scrubStart s).pending = s.pending
      ∧ (scrubStart s).cfl = s.cfl
      ∧ (scrubStart s).fli = s.fli
      ∧ (scrubStart s).au = s.au
      ∧ (scrubStart s).wq = s.wq
      ∧ (scrubStart s).isc.directory = s.isc.directory
      ∧ (scrubStart s).isc.store = s.isc.store
      ∧ (scrubStart s).isc.crcArea = s.isc.crcArea
      ∧ (scrubStart s).de = s.de
      ∧ (scrubStart s).cp = s.cp
      ∧ (scrubStart s).shu = s.shu
      ∧ (scrubStart s).lu = s.lu
      ∧ (scrubStart s).mlc = s.mlc
      ∧ (scrubStart s).rti = s.rti
      ∧ (scrubStart s).pp = s.pp := by
  unfold scrubStart
  repeat' split
  all_goals simp

@[simp] theorem scrubFinish_frame (s : State) :
    (scrubFinish s).clock = s.clock
      ∧ (scrubFinish s).raceCount = s.raceCount
      ∧ (scrubFinish s).pending = s.pending
      ∧ (scrubFinish s).cfl = s.cfl
      ∧ (scrubFinish s).fli.butQueue = s.fli.butQueue
      ∧ (scrubFinish s).au = s.au
      ∧ (scrubFinish s).isc.store = s.isc.store
      ∧ (scrubFinish s).isc.crcArea = s.isc.crcArea
      ∧ (scrubFinish s).shu = s.shu
      ∧ (scrubFinish s).lu = s.lu
      ∧ (scrubFinish s).mlc = s.mlc
      ∧ (scrubFinish s).rti = s.rti
      ∧ (scrubFinish s).pp.butEvents = s.pp.butEvents := by
  unfold scrubFinish
  split <;> simp

@[simp] theorem muteStore_frame (s : State) :
    (muteStore s).clock = s.clock
      ∧ (muteStore s).raceCount = s.raceCount
      ∧ (muteStore s).pending = s.pending
      ∧ (muteStore s).cfl = s.cfl
      ∧ (muteStore s).fli = s.fli
      ∧ (muteStore s).au = s.au
      ∧ (muteStore s).wq = s.wq
      ∧ (muteStore s).isc.store = s.isc.store
      ∧ (muteStore s).isc.crcArea = s.isc.crcArea
      ∧ (muteStore s).de = s.de
      ∧ (muteStore s).cp = s.cp
      ∧ (muteStore s).shu = s.shu
      ∧ (muteStore s).lu = s.lu
      ∧ (muteStore s).mlc = s.mlc
      ∧ (muteStore s).rti = s.rti
      ∧ (muteStore s).pp = s.pp := by
  unfold muteStore
  simp

@[simp] theorem slicesOver_frame (s : State) :
    (slicesOver s).clock = s.clock
      ∧ (slicesOver s).raceCount = s.raceCount
      ∧ (slicesOver s).pending = s.pending
      ∧ (slicesOver s).cfl = s.cfl
      ∧ (slicesOver s).fli = s.fli
      ∧ (slicesOver s).au = s.au
      ∧ (slicesOver s).wq = s.wq
      ∧ (slicesOver s).isc = s.isc
      ∧ (slicesOver s).de.sockets = s.de.sockets
      ∧ (slicesOver s).de.grant = s.de.grant
      ∧ (slicesOver s).de.writeSlot = s.de.writeSlot
      ∧ (slicesOver s).cp = s.cp
      ∧ (slicesOver s).shu = s.shu
      ∧ (slicesOver s).lu = s.lu
      ∧ (slicesOver s).mlc = s.mlc
      ∧ (slicesOver s).rti = s.rti
      ∧ (slicesOver s).pp = s.pp := by
  unfold slicesOver
  simp

@[simp] theorem passPort_frame (u : Option PortUser) (s : State) :
    (passPort u s).clock = s.clock
      ∧ (passPort u s).raceCount = s.raceCount
      ∧ (passPort u s).pending = s.pending
      ∧ (passPort u s).cfl = s.cfl
      ∧ (passPort u s).fli = s.fli
      ∧ (passPort u s).au = s.au
      ∧ (passPort u s).wq = s.wq
      ∧ (passPort u s).isc.directory = s.isc.directory
      ∧ (passPort u s).isc.store = s.isc.store
      ∧ (passPort u s).isc.crcArea = s.isc.crcArea
      ∧ (passPort u s).de.sockets = s.de.sockets
      ∧ (passPort u s).de.grant = s.de.grant
      ∧ (passPort u s).de.writeSlot = s.de.writeSlot
      ∧ (passPort u s).cp = s.cp
      ∧ (passPort u s).shu = s.shu
      ∧ (passPort u s).lu = s.lu
      ∧ (passPort u s).mlc = s.mlc
      ∧ (passPort u s).rti = s.rti
      ∧ (passPort u s).pp = s.pp := by
  unfold passPort
  dsimp only
  split <;> simp

@[simp] theorem grantPort_frame (s : State) :
    (grantPort s).clock = s.clock
      ∧ (grantPort s).raceCount = s.raceCount
      ∧ (grantPort s).pending = s.pending
      ∧ (grantPort s).cfl = s.cfl
      ∧ (grantPort s).fli = s.fli
      ∧ (grantPort s).au = s.au
      ∧ (grantPort s).wq = s.wq
      ∧ (grantPort s).isc.directory = s.isc.directory
      ∧ (grantPort s).isc.store = s.isc.store
      ∧ (grantPort s).isc.crcArea = s.isc.crcArea
      ∧ (grantPort s).de.sockets = s.de.sockets
      ∧ (grantPort s).de.grant = s.de.grant
      ∧ (grantPort s).de.writeSlot = s.de.writeSlot
      ∧ (grantPort s).cp = s.cp
      ∧ (grantPort s).shu = s.shu
      ∧ (grantPort s).lu = s.lu
      ∧ (grantPort s).mlc = s.mlc
      ∧ (grantPort s).rti = s.rti
      ∧ (grantPort s).pp = s.pp := by
  unfold grantPort
  dsimp only
  (repeat' split) <;> simp

@[simp] theorem linkCart_frame (slot : ℕ) (k : SocketNo) (r : CartRecord) (s : State) :
    (linkCart slot k r s).clock = s.clock
      ∧ (linkCart slot k r s).raceCount = s.raceCount
      ∧ (linkCart slot k r s).pending = s.pending
      ∧ (linkCart slot k r s).cfl = s.cfl
      ∧ (linkCart slot k r s).fli = s.fli
      ∧ (linkCart slot k r s).au = s.au
      ∧ (linkCart slot k r s).wq.records = s.wq.records
      ∧ (linkCart slot k r s).isc = s.isc
      ∧ (linkCart slot k r s).shu = s.shu
      ∧ (linkCart slot k r s).lu = s.lu
      ∧ (linkCart slot k r s).mlc = s.mlc
      ∧ (linkCart slot k r s).rti = s.rti
      ∧ (linkCart slot k r s).pp = s.pp := by
  unfold linkCart
  simp

@[simp] theorem askLoad_frame (slot : ℕ) (pc : PlannedCart) (s : State) :
    (askLoad slot pc s).clock = s.clock
      ∧ (askLoad slot pc s).raceCount = s.raceCount
      ∧ (askLoad slot pc s).pending = s.pending
      ∧ (askLoad slot pc s).cfl = s.cfl
      ∧ (askLoad slot pc s).fli = s.fli
      ∧ (askLoad slot pc s).au = s.au
      ∧ (askLoad slot pc s).wq.records = s.wq.records
      ∧ (askLoad slot pc s).isc = s.isc
      ∧ (askLoad slot pc s).de = s.de
      ∧ (askLoad slot pc s).cp = s.cp
      ∧ (askLoad slot pc s).shu = s.shu
      ∧ (askLoad slot pc s).lu = s.lu
      ∧ (askLoad slot pc s).mlc = s.mlc
      ∧ (askLoad slot pc s).rti = s.rti
      ∧ (askLoad slot pc s).pp.butEvents = s.pp.butEvents := by
  unfold askLoad
  simp

@[simp] theorem offerCart_frame (s : State) (slot : ℕ) :
    (offerCart s slot).clock = s.clock
      ∧ (offerCart s slot).raceCount = s.raceCount
      ∧ (offerCart s slot).pending = s.pending
      ∧ (offerCart s slot).cfl = s.cfl
      ∧ (offerCart s slot).fli = s.fli
      ∧ (offerCart s slot).au = s.au
      ∧ (offerCart s slot).wq.records = s.wq.records
      ∧ (offerCart s slot).isc = s.isc
      ∧ (offerCart s slot).shu = s.shu
      ∧ (offerCart s slot).lu = s.lu
      ∧ (offerCart s slot).mlc = s.mlc
      ∧ (offerCart s slot).rti = s.rti
      ∧ (offerCart s slot).pp.butEvents = s.pp.butEvents := by
  unfold offerCart
  repeat' split
  all_goals simp

@[simp] theorem walk_frame (s : State) :
    (walk s).clock = s.clock
      ∧ (walk s).raceCount = s.raceCount
      ∧ (walk s).pending = s.pending
      ∧ (walk s).cfl = s.cfl
      ∧ (walk s).fli = s.fli
      ∧ (walk s).au = s.au
      ∧ (walk s).wq.records = s.wq.records
      ∧ (walk s).isc = s.isc
      ∧ (walk s).shu = s.shu
      ∧ (walk s).lu = s.lu
      ∧ (walk s).mlc = s.mlc
      ∧ (walk s).rti = s.rti
      ∧ (walk s).pp.butEvents = s.pp.butEvents := by
  unfold walk
  simp

@[simp] theorem startWrite_frame (s : State) (k : SocketNo) :
    (startWrite s k).clock = s.clock
      ∧ (startWrite s k).raceCount = s.raceCount
      ∧ (startWrite s k).pending = s.pending
      ∧ (startWrite s k).cfl = s.cfl
      ∧ (startWrite s k).fli = s.fli
      ∧ (startWrite s k).au = s.au
      ∧ (startWrite s k).wq = s.wq
      ∧ (startWrite s k).isc = s.isc
      ∧ (startWrite s k).cp = s.cp
      ∧ (startWrite s k).shu = s.shu
      ∧ (startWrite s k).lu = s.lu
      ∧ (startWrite s k).mlc = s.mlc
      ∧ (startWrite s k).rti = s.rti
      ∧ (startWrite s k).pp = s.pp := by
  unfold startWrite
  split <;> simp

@[simp] theorem startWrites_frame (s : State) :
    (startWrites s).clock = s.clock
      ∧ (startWrites s).raceCount = s.raceCount
      ∧ (startWrites s).pending = s.pending
      ∧ (startWrites s).cfl = s.cfl
      ∧ (startWrites s).fli = s.fli
      ∧ (startWrites s).au = s.au
      ∧ (startWrites s).wq = s.wq
      ∧ (startWrites s).isc = s.isc
      ∧ (startWrites s).cp = s.cp
      ∧ (startWrites s).shu = s.shu
      ∧ (startWrites s).lu = s.lu
      ∧ (startWrites s).mlc = s.mlc
      ∧ (startWrites s).rti = s.rti
      ∧ (startWrites s).pp = s.pp := by
  unfold startWrites
  simp

@[simp] theorem fillFull_frame (k : SocketNo) (bytes : List Byte) (s : State) :
    (fillFull k bytes s).clock = s.clock
      ∧ (fillFull k bytes s).raceCount = s.raceCount
      ∧ (fillFull k bytes s).pending = s.pending
      ∧ (fillFull k bytes s).cfl = s.cfl
      ∧ (fillFull k bytes s).fli = s.fli
      ∧ (fillFull k bytes s).au = s.au
      ∧ (fillFull k bytes s).wq = s.wq
      ∧ (fillFull k bytes s).isc = s.isc
      ∧ (fillFull k bytes s).cp = s.cp
      ∧ (fillFull k bytes s).shu = s.shu
      ∧ (fillFull k bytes s).lu = s.lu
      ∧ (fillFull k bytes s).mlc = s.mlc
      ∧ (fillFull k bytes s).rti = s.rti
      ∧ (fillFull k bytes s).pp = s.pp := by
  unfold fillFull
  simp

@[simp] theorem fillSector_frame (k : SocketNo) (p : ℕ) (j : ℕ) (s : State) :
    (fillSector k p j s).clock = s.clock
      ∧ (fillSector k p j s).raceCount = s.raceCount
      ∧ (fillSector k p j s).pending = s.pending
      ∧ (fillSector k p j s).cfl = s.cfl
      ∧ (fillSector k p j s).fli = s.fli
      ∧ (fillSector k p j s).au = s.au
      ∧ (fillSector k p j s).wq = s.wq
      ∧ (fillSector k p j s).isc.store = s.isc.store
      ∧ (fillSector k p j s).isc.crcArea = s.isc.crcArea
      ∧ (fillSector k p j s).cp = s.cp
      ∧ (fillSector k p j s).shu = s.shu
      ∧ (fillSector k p j s).lu = s.lu
      ∧ (fillSector k p j s).mlc = s.mlc
      ∧ (fillSector k p j s).rti = s.rti
      ∧ (fillSector k p j s).pp = s.pp := by
  unfold fillSector
  split <;> simp

@[simp] theorem fillFor_frame (k : SocketNo) (s : State) :
    (fillFor k s).clock = s.clock
      ∧ (fillFor k s).raceCount = s.raceCount
      ∧ (fillFor k s).pending = s.pending
      ∧ (fillFor k s).cfl = s.cfl
      ∧ (fillFor k s).fli = s.fli
      ∧ (fillFor k s).au = s.au
      ∧ (fillFor k s).wq = s.wq
      ∧ (fillFor k s).isc.store = s.isc.store
      ∧ (fillFor k s).isc.crcArea = s.isc.crcArea
      ∧ (fillFor k s).cp = s.cp
      ∧ (fillFor k s).shu = s.shu
      ∧ (fillFor k s).lu = s.lu
      ∧ (fillFor k s).mlc = s.mlc
      ∧ (fillFor k s).rti = s.rti
      ∧ (fillFor k s).pp = s.pp := by
  unfold fillFor
  repeat' split
  all_goals simp

@[simp] theorem fillSlot_frame (s : State) :
    (fillSlot s).clock = s.clock
      ∧ (fillSlot s).raceCount = s.raceCount
      ∧ (fillSlot s).pending = s.pending
      ∧ (fillSlot s).cfl = s.cfl
      ∧ (fillSlot s).fli = s.fli
      ∧ (fillSlot s).au = s.au
      ∧ (fillSlot s).wq = s.wq
      ∧ (fillSlot s).isc.store = s.isc.store
      ∧ (fillSlot s).isc.crcArea = s.isc.crcArea
      ∧ (fillSlot s).cp = s.cp
      ∧ (fillSlot s).shu = s.shu
      ∧ (fillSlot s).lu = s.lu
      ∧ (fillSlot s).mlc = s.mlc
      ∧ (fillSlot s).rti = s.rti
      ∧ (fillSlot s).pp = s.pp := by
  unfold fillSlot
  repeat' split
  all_goals simp

@[simp] theorem noteGrant_frame (k : SocketNo) (s : State) :
    (noteGrant k s).clock = s.clock
      ∧ (noteGrant k s).raceCount = s.raceCount
      ∧ (noteGrant k s).pending = s.pending
      ∧ (noteGrant k s).cfl = s.cfl
      ∧ (noteGrant k s).fli = s.fli
      ∧ (noteGrant k s).au = s.au
      ∧ (noteGrant k s).wq = s.wq
      ∧ (noteGrant k s).isc = s.isc
      ∧ (noteGrant k s).de = s.de
      ∧ (noteGrant k s).shu = s.shu
      ∧ (noteGrant k s).lu = s.lu
      ∧ (noteGrant k s).mlc = s.mlc
      ∧ (noteGrant k s).rti = s.rti
      ∧ (noteGrant k s).pp = s.pp := by
  unfold noteGrant
  split <;> simp

@[simp] theorem grantBus_frame (s : State) :
    (grantBus s).clock = s.clock
      ∧ (grantBus s).raceCount = s.raceCount
      ∧ (grantBus s).pending = s.pending
      ∧ (grantBus s).cfl = s.cfl
      ∧ (grantBus s).fli = s.fli
      ∧ (grantBus s).au = s.au
      ∧ (grantBus s).wq = s.wq
      ∧ (grantBus s).isc = s.isc
      ∧ (grantBus s).shu = s.shu
      ∧ (grantBus s).lu = s.lu
      ∧ (grantBus s).mlc = s.mlc
      ∧ (grantBus s).rti = s.rti
      ∧ (grantBus s).pp = s.pp := by
  unfold grantBus
  repeat' split
  all_goals simp

@[simp] theorem deStage_frame (s : State) :
    (deStage s).clock = s.clock
      ∧ (deStage s).raceCount = s.raceCount
      ∧ (deStage s).pending = s.pending
      ∧ (deStage s).cfl = s.cfl
      ∧ (deStage s).fli = s.fli
      ∧ (deStage s).au = s.au
      ∧ (deStage s).wq.records = s.wq.records
      ∧ (deStage s).isc.store = s.isc.store
      ∧ (deStage s).isc.crcArea = s.isc.crcArea
      ∧ (deStage s).shu = s.shu
      ∧ (deStage s).lu = s.lu
      ∧ (deStage s).mlc = s.mlc
      ∧ (deStage s).rti = s.rti
      ∧ (deStage s).pp.butEvents = s.pp.butEvents := by
  unfold deStage
  simp

@[simp] theorem endGrant_frame (s : State) :
    (endGrant s).clock = s.clock
      ∧ (endGrant s).raceCount = s.raceCount
      ∧ (endGrant s).pending = s.pending
      ∧ (endGrant s).cfl = s.cfl
      ∧ (endGrant s).fli = s.fli
      ∧ (endGrant s).au = s.au
      ∧ (endGrant s).wq = s.wq
      ∧ (endGrant s).isc = s.isc
      ∧ (endGrant s).cp = s.cp
      ∧ (endGrant s).shu = s.shu
      ∧ (endGrant s).lu = s.lu
      ∧ (endGrant s).mlc = s.mlc
      ∧ (endGrant s).rti = s.rti
      ∧ (endGrant s).pp = s.pp := by
  unfold endGrant
  simp

@[simp] theorem faultCart_frame (k : SocketNo) (s : State) :
    (faultCart k s).clock = s.clock
      ∧ (faultCart k s).raceCount = s.raceCount
      ∧ (faultCart k s).pending = s.pending
      ∧ (faultCart k s).cfl = s.cfl
      ∧ (faultCart k s).fli = s.fli
      ∧ (faultCart k s).au = s.au
      ∧ (faultCart k s).wq.records = s.wq.records
      ∧ (faultCart k s).isc = s.isc
      ∧ (faultCart k s).shu = s.shu
      ∧ (faultCart k s).lu = s.lu
      ∧ (faultCart k s).mlc = s.mlc
      ∧ (faultCart k s).rti = s.rti
      ∧ (faultCart k s).pp.butEvents = s.pp.butEvents := by
  unfold faultCart
  dsimp only
  split <;> simp

@[simp] theorem rewriteCart_frame (k : SocketNo) (s : State) :
    (rewriteCart k s).clock = s.clock
      ∧ (rewriteCart k s).raceCount = s.raceCount
      ∧ (rewriteCart k s).pending = s.pending
      ∧ (rewriteCart k s).cfl = s.cfl
      ∧ (rewriteCart k s).fli = s.fli
      ∧ (rewriteCart k s).au = s.au
      ∧ (rewriteCart k s).wq = s.wq
      ∧ (rewriteCart k s).isc = s.isc
      ∧ (rewriteCart k s).shu = s.shu
      ∧ (rewriteCart k s).lu = s.lu
      ∧ (rewriteCart k s).mlc = s.mlc
      ∧ (rewriteCart k s).rti = s.rti
      ∧ (rewriteCart k s).pp = s.pp := by
  unfold rewriteCart
  dsimp only
  split <;> simp

@[simp] theorem opFails_frame (k : SocketNo) (s : State) :
    (opFails k s).clock = s.clock
      ∧ (opFails k s).raceCount = s.raceCount
      ∧ (opFails k s).pending = s.pending
      ∧ (opFails k s).cfl = s.cfl
      ∧ (opFails k s).fli = s.fli
      ∧ (opFails k s).au = s.au
      ∧ (opFails k s).wq.records = s.wq.records
      ∧ (opFails k s).isc = s.isc
      ∧ (opFails k s).shu = s.shu
      ∧ (opFails k s).lu = s.lu
      ∧ (opFails k s).mlc = s.mlc
      ∧ (opFails k s).rti = s.rti
      ∧ (opFails k s).pp.butEvents = s.pp.butEvents := by
  unfold opFails
  repeat' split
  all_goals simp

@[simp] theorem setOp_frame (k : SocketNo) (op : Op) (s : State) :
    (setOp k op s).clock = s.clock
      ∧ (setOp k op s).raceCount = s.raceCount
      ∧ (setOp k op s).pending = s.pending
      ∧ (setOp k op s).cfl = s.cfl
      ∧ (setOp k op s).fli = s.fli
      ∧ (setOp k op s).au = s.au
      ∧ (setOp k op s).wq = s.wq
      ∧ (setOp k op s).isc = s.isc
      ∧ (setOp k op s).cp = s.cp
      ∧ (setOp k op s).shu = s.shu
      ∧ (setOp k op s).lu = s.lu
      ∧ (setOp k op s).mlc = s.mlc
      ∧ (setOp k op s).rti = s.rti
      ∧ (setOp k op s).pp = s.pp := by
  unfold setOp
  simp

@[simp] theorem setHeader_frame (k : SocketNo) (h : Header) (s : State) :
    (setHeader k h s).clock = s.clock
      ∧ (setHeader k h s).raceCount = s.raceCount
      ∧ (setHeader k h s).pending = s.pending
      ∧ (setHeader k h s).cfl = s.cfl
      ∧ (setHeader k h s).fli = s.fli
      ∧ (setHeader k h s).au = s.au
      ∧ (setHeader k h s).wq = s.wq
      ∧ (setHeader k h s).isc = s.isc
      ∧ (setHeader k h s).cp = s.cp
      ∧ (setHeader k h s).shu = s.shu
      ∧ (setHeader k h s).lu = s.lu
      ∧ (setHeader k h s).mlc = s.mlc
      ∧ (setHeader k h s).rti = s.rti
      ∧ (setHeader k h s).pp = s.pp := by
  unfold setHeader
  simp

@[simp] theorem wearReported_frame (k : SocketNo) (serial : CartSerial) (h : Header) (s : State) :
    (wearReported k serial h s).clock = s.clock
      ∧ (wearReported k serial h s).raceCount = s.raceCount
      ∧ (wearReported k serial h s).pending = s.pending
      ∧ (wearReported k serial h s).cfl = s.cfl
      ∧ (wearReported k serial h s).fli = s.fli
      ∧ (wearReported k serial h s).au = s.au
      ∧ (wearReported k serial h s).wq = s.wq
      ∧ (wearReported k serial h s).isc = s.isc
      ∧ (wearReported k serial h s).shu = s.shu
      ∧ (wearReported k serial h s).lu = s.lu
      ∧ (wearReported k serial h s).mlc = s.mlc
      ∧ (wearReported k serial h s).rti = s.rti
      ∧ (wearReported k serial h s).pp = s.pp := by
  unfold wearReported
  simp

@[simp] theorem eraseEnds_frame (k : SocketNo) (serial : CartSerial) (h : Header) (s : State) :
    (eraseEnds k serial h s).clock = s.clock
      ∧ (eraseEnds k serial h s).raceCount = s.raceCount
      ∧ (eraseEnds k serial h s).pending = s.pending
      ∧ (eraseEnds k serial h s).cfl = s.cfl
      ∧ (eraseEnds k serial h s).fli = s.fli
      ∧ (eraseEnds k serial h s).au = s.au
      ∧ (eraseEnds k serial h s).wq = s.wq
      ∧ (eraseEnds k serial h s).isc = s.isc
      ∧ (eraseEnds k serial h s).shu = s.shu
      ∧ (eraseEnds k serial h s).lu = s.lu
      ∧ (eraseEnds k serial h s).mlc = s.mlc
      ∧ (eraseEnds k serial h s).rti = s.rti
      ∧ (eraseEnds k serial h s).pp.butEvents = s.pp.butEvents := by
  unfold eraseEnds
  simp

@[simp] theorem opPasses_frame (k : SocketNo) (s : State) :
    (opPasses k s).clock = s.clock
      ∧ (opPasses k s).raceCount = s.raceCount
      ∧ (opPasses k s).pending = s.pending
      ∧ (opPasses k s).cfl = s.cfl
      ∧ (opPasses k s).fli = s.fli
      ∧ (opPasses k s).au = s.au
      ∧ (opPasses k s).wq = s.wq
      ∧ (opPasses k s).isc = s.isc
      ∧ (opPasses k s).shu = s.shu
      ∧ (opPasses k s).lu = s.lu
      ∧ (opPasses k s).mlc = s.mlc
      ∧ (opPasses k s).rti = s.rti
      ∧ (opPasses k s).pp.butEvents = s.pp.butEvents := by
  unfold opPasses
  repeat' split
  all_goals simp

@[simp] theorem cartWritten_frame (k : SocketNo) (s : State) :
    (cartWritten k s).clock = s.clock
      ∧ (cartWritten k s).raceCount = s.raceCount
      ∧ (cartWritten k s).pending = s.pending
      ∧ (cartWritten k s).cfl = s.cfl
      ∧ (cartWritten k s).fli = s.fli
      ∧ (cartWritten k s).au = s.au
      ∧ (cartWritten k s).wq.records = s.wq.records
      ∧ (cartWritten k s).isc = s.isc
      ∧ (cartWritten k s).shu = s.shu
      ∧ (cartWritten k s).lu = s.lu
      ∧ (cartWritten k s).mlc = s.mlc
      ∧ (cartWritten k s).rti = s.rti
      ∧ (cartWritten k s).pp = s.pp := by
  unfold cartWritten
  dsimp only
  split <;> simp

@[simp] theorem verifyPasses_frame (k : SocketNo) (s : State) :
    (verifyPasses k s).clock = s.clock
      ∧ (verifyPasses k s).raceCount = s.raceCount
      ∧ (verifyPasses k s).pending = s.pending
      ∧ (verifyPasses k s).cfl = s.cfl
      ∧ (verifyPasses k s).fli = s.fli
      ∧ (verifyPasses k s).au = s.au
      ∧ (verifyPasses k s).wq.records = s.wq.records
      ∧ (verifyPasses k s).isc = s.isc
      ∧ (verifyPasses k s).shu = s.shu
      ∧ (verifyPasses k s).lu = s.lu
      ∧ (verifyPasses k s).mlc = s.mlc
      ∧ (verifyPasses k s).rti = s.rti
      ∧ (verifyPasses k s).pp = s.pp := by
  unfold verifyPasses
  repeat' split
  all_goals simp

@[simp] theorem refuseSocket_frame (k : SocketNo) (reason : SocketReason) (s : State) :
    (refuseSocket k reason s).clock = s.clock
      ∧ (refuseSocket k reason s).raceCount = s.raceCount
      ∧ (refuseSocket k reason s).pending = s.pending
      ∧ (refuseSocket k reason s).cfl = s.cfl
      ∧ (refuseSocket k reason s).fli = s.fli
      ∧ (refuseSocket k reason s).au = s.au
      ∧ (refuseSocket k reason s).wq = s.wq
      ∧ (refuseSocket k reason s).isc = s.isc
      ∧ (refuseSocket k reason s).cp = s.cp
      ∧ (refuseSocket k reason s).shu = s.shu
      ∧ (refuseSocket k reason s).lu = s.lu
      ∧ (refuseSocket k reason s).mlc = s.mlc
      ∧ (refuseSocket k reason s).rti = s.rti
      ∧ (refuseSocket k reason s).pp.butEvents = s.pp.butEvents := by
  unfold refuseSocket
  simp

@[simp] theorem identify_frame (k : SocketNo) (h : Header) (s : State) :
    (identify k h s).clock = s.clock
      ∧ (identify k h s).raceCount = s.raceCount
      ∧ (identify k h s).pending = s.pending
      ∧ (identify k h s).cfl = s.cfl
      ∧ (identify k h s).fli = s.fli
      ∧ (identify k h s).au = s.au
      ∧ (identify k h s).wq = s.wq
      ∧ (identify k h s).isc = s.isc
      ∧ (identify k h s).shu = s.shu
      ∧ (identify k h s).lu = s.lu
      ∧ (identify k h s).mlc = s.mlc
      ∧ (identify k h s).rti = s.rti
      ∧ (identify k h s).pp.butEvents = s.pp.butEvents := by
  unfold identify
  dsimp only
  split
  · simp
  · split
    · simp
    · split
      all_goals
        rename_i e
        have k := congrArg Prod.fst e
        dsimp only at k
        subst k
        simp

@[simp] theorem postWrite_frame (s : State) :
    (postWrite s).clock = s.clock
      ∧ (postWrite s).raceCount = s.raceCount
      ∧ (postWrite s).pending = s.pending
      ∧ (postWrite s).cfl = s.cfl
      ∧ (postWrite s).fli = s.fli
      ∧ (postWrite s).au = s.au
      ∧ (postWrite s).wq = s.wq
      ∧ (postWrite s).isc = s.isc
      ∧ (postWrite s).cp = s.cp
      ∧ (postWrite s).shu = s.shu
      ∧ (postWrite s).lu = s.lu
      ∧ (postWrite s).mlc = s.mlc
      ∧ (postWrite s).rti = s.rti
      ∧ (postWrite s).pp = s.pp := by
  unfold postWrite
  split <;> simp

@[simp] theorem sendErase_frame (s : State) :
    (sendErase s).clock = s.clock
      ∧ (sendErase s).raceCount = s.raceCount
      ∧ (sendErase s).pending = s.pending
      ∧ (sendErase s).cfl = s.cfl
      ∧ (sendErase s).fli = s.fli
      ∧ (sendErase s).au = s.au
      ∧ (sendErase s).wq = s.wq
      ∧ (sendErase s).isc = s.isc
      ∧ (sendErase s).cp = s.cp
      ∧ (sendErase s).shu = s.shu
      ∧ (sendErase s).lu = s.lu
      ∧ (sendErase s).mlc = s.mlc
      ∧ (sendErase s).rti = s.rti
      ∧ (sendErase s).pp = s.pp := by
  unfold sendErase
  split <;> simp

@[simp] theorem landRead_frame (k : SocketNo) (bytes : List Byte) (s : State) :
    (landRead k bytes s).clock = s.clock
      ∧ (landRead k bytes s).raceCount = s.raceCount
      ∧ (landRead k bytes s).pending = s.pending
      ∧ (landRead k bytes s).cfl = s.cfl
      ∧ (landRead k bytes s).fli = s.fli
      ∧ (landRead k bytes s).au = s.au
      ∧ (landRead k bytes s).wq = s.wq
      ∧ (landRead k bytes s).isc = s.isc
      ∧ (landRead k bytes s).cp = s.cp
      ∧ (landRead k bytes s).shu = s.shu
      ∧ (landRead k bytes s).lu = s.lu
      ∧ (landRead k bytes s).mlc = s.mlc
      ∧ (landRead k bytes s).rti = s.rti
      ∧ (landRead k bytes s).pp = s.pp := by
  unfold landRead
  simp

@[simp] theorem emptyRead_frame (s : State) :
    (emptyRead s).clock = s.clock
      ∧ (emptyRead s).raceCount = s.raceCount
      ∧ (emptyRead s).pending = s.pending
      ∧ (emptyRead s).cfl = s.cfl
      ∧ (emptyRead s).fli = s.fli
      ∧ (emptyRead s).au = s.au
      ∧ (emptyRead s).wq = s.wq
      ∧ (emptyRead s).isc = s.isc
      ∧ (emptyRead s).cp = s.cp
      ∧ (emptyRead s).shu = s.shu
      ∧ (emptyRead s).lu = s.lu
      ∧ (emptyRead s).mlc = s.mlc
      ∧ (emptyRead s).rti = s.rti
      ∧ (emptyRead s).pp = s.pp := by
  unfold emptyRead
  simp

@[simp] theorem fallSilent_frame (k : SocketNo) (s : State) :
    (fallSilent k s).clock = s.clock
      ∧ (fallSilent k s).raceCount = s.raceCount
      ∧ (fallSilent k s).pending = s.pending
      ∧ (fallSilent k s).cfl = s.cfl
      ∧ (fallSilent k s).fli = s.fli
      ∧ (fallSilent k s).au = s.au
      ∧ (fallSilent k s).wq = s.wq
      ∧ (fallSilent k s).isc = s.isc
      ∧ (fallSilent k s).cp = s.cp
      ∧ (fallSilent k s).shu = s.shu
      ∧ (fallSilent k s).lu = s.lu
      ∧ (fallSilent k s).mlc = s.mlc
      ∧ (fallSilent k s).rti = s.rti
      ∧ (fallSilent k s).pp = s.pp := by
  unfold fallSilent
  simp

@[simp] theorem sectorRead_frame (sector : List Byte) (s : State) :
    (sectorRead sector s).clock = s.clock
      ∧ (sectorRead sector s).raceCount = s.raceCount
      ∧ (sectorRead sector s).pending = s.pending
      ∧ (sectorRead sector s).cfl = s.cfl
      ∧ (sectorRead sector s).fli = s.fli
      ∧ (sectorRead sector s).au = s.au
      ∧ (sectorRead sector s).wq = s.wq
      ∧ (sectorRead sector s).isc = s.isc
      ∧ (sectorRead sector s).cp = s.cp
      ∧ (sectorRead sector s).shu = s.shu
      ∧ (sectorRead sector s).lu = s.lu
      ∧ (sectorRead sector s).mlc = s.mlc
      ∧ (sectorRead sector s).rti = s.rti
      ∧ (sectorRead sector s).pp = s.pp := by
  unfold sectorRead
  split <;> simp

@[simp] theorem checkRead_frame (s : State) :
    (checkRead s).clock = s.clock
      ∧ (checkRead s).raceCount = s.raceCount
      ∧ (checkRead s).pending = s.pending
      ∧ (checkRead s).cfl = s.cfl
      ∧ (checkRead s).fli = s.fli
      ∧ (checkRead s).au = s.au
      ∧ (checkRead s).wq.records = s.wq.records
      ∧ (checkRead s).isc = s.isc
      ∧ (checkRead s).shu = s.shu
      ∧ (checkRead s).lu = s.lu
      ∧ (checkRead s).mlc = s.mlc
      ∧ (checkRead s).rti = s.rti
      ∧ (checkRead s).pp.butEvents = s.pp.butEvents := by
  unfold checkRead
  repeat' split
  all_goals simp

@[simp] theorem workOver_frame (k : SocketNo) (s : State) :
    (workOver k s).clock = s.clock
      ∧ (workOver k s).raceCount = s.raceCount
      ∧ (workOver k s).pending = s.pending
      ∧ (workOver k s).cfl = s.cfl
      ∧ (workOver k s).fli = s.fli
      ∧ (workOver k s).au = s.au
      ∧ (workOver k s).wq = s.wq
      ∧ (workOver k s).isc = s.isc
      ∧ (workOver k s).cp = s.cp
      ∧ (workOver k s).shu = s.shu
      ∧ (workOver k s).lu = s.lu
      ∧ (workOver k s).mlc = s.mlc
      ∧ (workOver k s).rti = s.rti
      ∧ (workOver k s).pp = s.pp := by
  unfold workOver
  simp

@[simp] theorem cartLate_frame (k : SocketNo) (s : State) :
    (cartLate k s).clock = s.clock
      ∧ (cartLate k s).raceCount = s.raceCount
      ∧ (cartLate k s).pending = s.pending
      ∧ (cartLate k s).cfl = s.cfl
      ∧ (cartLate k s).fli = s.fli
      ∧ (cartLate k s).au = s.au
      ∧ (cartLate k s).wq.records = s.wq.records
      ∧ (cartLate k s).isc = s.isc
      ∧ (cartLate k s).shu = s.shu
      ∧ (cartLate k s).lu = s.lu
      ∧ (cartLate k s).mlc = s.mlc
      ∧ (cartLate k s).rti = s.rti
      ∧ (cartLate k s).pp.butEvents = s.pp.butEvents := by
  unfold cartLate
  split <;> simp

@[simp] theorem slotFilled_frame (s : State) :
    (slotFilled s).clock = s.clock
      ∧ (slotFilled s).raceCount = s.raceCount
      ∧ (slotFilled s).pending = s.pending
      ∧ (slotFilled s).cfl = s.cfl
      ∧ (slotFilled s).fli.butQueue = s.fli.butQueue
      ∧ (slotFilled s).au = s.au
      ∧ (slotFilled s).isc.store = s.isc.store
      ∧ (slotFilled s).isc.crcArea = s.isc.crcArea
      ∧ (slotFilled s).shu = s.shu
      ∧ (slotFilled s).lu = s.lu
      ∧ (slotFilled s).mlc = s.mlc
      ∧ (slotFilled s).rti = s.rti
      ∧ (slotFilled s).pp.butEvents = s.pp.butEvents := by
  unfold slotFilled
  split <;> simp

@[simp] theorem removeRecord_frame (serial : CartSerial) (s : State) :
    (removeRecord serial s).clock = s.clock
      ∧ (removeRecord serial s).raceCount = s.raceCount
      ∧ (removeRecord serial s).pending = s.pending
      ∧ (removeRecord serial s).cfl = s.cfl
      ∧ (removeRecord serial s).fli = s.fli
      ∧ (removeRecord serial s).au = s.au
      ∧ (removeRecord serial s).wq.records = s.wq.records
      ∧ (removeRecord serial s).isc = s.isc
      ∧ (removeRecord serial s).shu = s.shu
      ∧ (removeRecord serial s).lu = s.lu
      ∧ (removeRecord serial s).mlc = s.mlc
      ∧ (removeRecord serial s).rti = s.rti
      ∧ (removeRecord serial s).pp = s.pp := by
  unfold removeRecord
  repeat' split
  all_goals simp

@[simp] theorem startIdentify_frame (k : SocketNo) (s : State) :
    (startIdentify k s).clock = s.clock
      ∧ (startIdentify k s).raceCount = s.raceCount
      ∧ (startIdentify k s).pending = s.pending
      ∧ (startIdentify k s).cfl = s.cfl
      ∧ (startIdentify k s).fli = s.fli
      ∧ (startIdentify k s).au = s.au
      ∧ (startIdentify k s).wq = s.wq
      ∧ (startIdentify k s).isc = s.isc
      ∧ (startIdentify k s).cp = s.cp
      ∧ (startIdentify k s).shu = s.shu
      ∧ (startIdentify k s).lu = s.lu
      ∧ (startIdentify k s).mlc = s.mlc
      ∧ (startIdentify k s).rti = s.rti
      ∧ (startIdentify k s).pp = s.pp := by
  unfold startIdentify
  simp

@[simp] theorem changeLoan_frame (tag : LoanTag) (f : Loan → Loan) (s : State) :
    (changeLoan tag f s).clock = s.clock
      ∧ (changeLoan tag f s).raceCount = s.raceCount
      ∧ (changeLoan tag f s).pending = s.pending
      ∧ (changeLoan tag f s).cfl = s.cfl
      ∧ (changeLoan tag f s).fli = s.fli
      ∧ (changeLoan tag f s).au = s.au
      ∧ (changeLoan tag f s).wq = s.wq
      ∧ (changeLoan tag f s).isc = s.isc
      ∧ (changeLoan tag f s).de = s.de
      ∧ (changeLoan tag f s).cp = s.cp
      ∧ (changeLoan tag f s).shu = s.shu
      ∧ (changeLoan tag f s).lu.day = s.lu.day
      ∧ (changeLoan tag f s).mlc = s.mlc
      ∧ (changeLoan tag f s).rti = s.rti
      ∧ (changeLoan tag f s).pp = s.pp := by
  unfold changeLoan
  simp

@[simp] theorem removeLoan_frame (tag : LoanTag) (s : State) :
    (removeLoan tag s).clock = s.clock
      ∧ (removeLoan tag s).raceCount = s.raceCount
      ∧ (removeLoan tag s).pending = s.pending
      ∧ (removeLoan tag s).cfl = s.cfl
      ∧ (removeLoan tag s).fli = s.fli
      ∧ (removeLoan tag s).au = s.au
      ∧ (removeLoan tag s).wq = s.wq
      ∧ (removeLoan tag s).isc = s.isc
      ∧ (removeLoan tag s).de = s.de
      ∧ (removeLoan tag s).cp = s.cp
      ∧ (removeLoan tag s).shu = s.shu
      ∧ (removeLoan tag s).lu.day = s.lu.day
      ∧ (removeLoan tag s).mlc = s.mlc
      ∧ (removeLoan tag s).rti = s.rti
      ∧ (removeLoan tag s).pp = s.pp := by
  unfold removeLoan
  simp

@[simp] theorem allocateLoan_frame (r : WorkRecord) (body : LoanTag → LoanBody) (s : State) :
    (allocateLoan r body s).1.clock = s.clock
      ∧ (allocateLoan r body s).1.raceCount = s.raceCount
      ∧ (allocateLoan r body s).1.pending = s.pending
      ∧ (allocateLoan r body s).1.cfl = s.cfl
      ∧ (allocateLoan r body s).1.fli = s.fli
      ∧ (allocateLoan r body s).1.au = s.au
      ∧ (allocateLoan r body s).1.wq = s.wq
      ∧ (allocateLoan r body s).1.isc = s.isc
      ∧ (allocateLoan r body s).1.de = s.de
      ∧ (allocateLoan r body s).1.cp = s.cp
      ∧ (allocateLoan r body s).1.shu = s.shu
      ∧ (allocateLoan r body s).1.lu.day = s.lu.day
      ∧ (allocateLoan r body s).1.mlc = s.mlc
      ∧ (allocateLoan r body s).1.rti = s.rti
      ∧ (allocateLoan r body s).1.pp = s.pp := by
  unfold allocateLoan
  repeat' split
  all_goals simp

@[simp] theorem loanEntersBin_frame (tag : LoanTag) (s : State) :
    (loanEntersBin tag s).clock = s.clock
      ∧ (loanEntersBin tag s).raceCount = s.raceCount
      ∧ (loanEntersBin tag s).pending = s.pending
      ∧ (loanEntersBin tag s).cfl = s.cfl
      ∧ (loanEntersBin tag s).fli = s.fli
      ∧ (loanEntersBin tag s).au = s.au
      ∧ (loanEntersBin tag s).wq = s.wq
      ∧ (loanEntersBin tag s).isc = s.isc
      ∧ (loanEntersBin tag s).de = s.de
      ∧ (loanEntersBin tag s).cp = s.cp
      ∧ (loanEntersBin tag s).shu = s.shu
      ∧ (loanEntersBin tag s).lu.day = s.lu.day
      ∧ (loanEntersBin tag s).mlc = s.mlc
      ∧ (loanEntersBin tag s).rti = s.rti
      ∧ (loanEntersBin tag s).pp = s.pp := by
  unfold loanEntersBin
  simp

@[simp] theorem closeLoan_frame (tag : LoanTag) (s : State) :
    (closeLoan tag s).1.clock = s.clock
      ∧ (closeLoan tag s).1.raceCount = s.raceCount
      ∧ (closeLoan tag s).1.pending = s.pending
      ∧ (closeLoan tag s).1.cfl = s.cfl
      ∧ (closeLoan tag s).1.fli = s.fli
      ∧ (closeLoan tag s).1.au = s.au
      ∧ (closeLoan tag s).1.wq = s.wq
      ∧ (closeLoan tag s).1.isc = s.isc
      ∧ (closeLoan tag s).1.de = s.de
      ∧ (closeLoan tag s).1.cp = s.cp
      ∧ (closeLoan tag s).1.shu = s.shu
      ∧ (closeLoan tag s).1.lu.day = s.lu.day
      ∧ (closeLoan tag s).1.mlc = s.mlc
      ∧ (closeLoan tag s).1.rti = s.rti
      ∧ (closeLoan tag s).1.pp = s.pp := by
  unfold closeLoan
  repeat' split
  all_goals simp

@[simp] theorem returnLoan_frame (tag : LoanTag) (transfer : Bool) (s : State) :
    (returnLoan tag transfer s).clock = s.clock
      ∧ (returnLoan tag transfer s).raceCount = s.raceCount
      ∧ (returnLoan tag transfer s).pending = s.pending
      ∧ (returnLoan tag transfer s).cfl = s.cfl
      ∧ (returnLoan tag transfer s).fli = s.fli
      ∧ (returnLoan tag transfer s).au = s.au
      ∧ (returnLoan tag transfer s).wq = s.wq
      ∧ (returnLoan tag transfer s).isc = s.isc
      ∧ (returnLoan tag transfer s).de = s.de
      ∧ (returnLoan tag transfer s).cp = s.cp
      ∧ (returnLoan tag transfer s).shu = s.shu
      ∧ (returnLoan tag transfer s).lu.day = s.lu.day
      ∧ (returnLoan tag transfer s).mlc = s.mlc
      ∧ (returnLoan tag transfer s).rti = s.rti
      ∧ (returnLoan tag transfer s).pp = s.pp := by
  unfold returnLoan
  split <;> simp

@[simp] theorem writeOffLoan_frame (s : State) (l : Loan) :
    (writeOffLoan s l).clock = s.clock
      ∧ (writeOffLoan s l).raceCount = s.raceCount
      ∧ (writeOffLoan s l).pending = s.pending
      ∧ (writeOffLoan s l).cfl = s.cfl
      ∧ (writeOffLoan s l).fli = s.fli
      ∧ (writeOffLoan s l).au = s.au
      ∧ (writeOffLoan s l).wq = s.wq
      ∧ (writeOffLoan s l).isc = s.isc
      ∧ (writeOffLoan s l).de = s.de
      ∧ (writeOffLoan s l).shu = s.shu
      ∧ (writeOffLoan s l).lu.day = s.lu.day
      ∧ (writeOffLoan s l).mlc = s.mlc
      ∧ (writeOffLoan s l).rti = s.rti
      ∧ (writeOffLoan s l).pp.butEvents = s.pp.butEvents := by
  unfold writeOffLoan
  simp

@[simp] theorem writeOff_frame (l : Loan) (s : State) :
    (writeOff l s).1.clock = s.clock
      ∧ (writeOff l s).1.raceCount = s.raceCount
      ∧ (writeOff l s).1.pending = s.pending
      ∧ (writeOff l s).1.cfl = s.cfl
      ∧ (writeOff l s).1.fli = s.fli
      ∧ (writeOff l s).1.au = s.au
      ∧ (writeOff l s).1.wq = s.wq
      ∧ (writeOff l s).1.isc = s.isc
      ∧ (writeOff l s).1.de = s.de
      ∧ (writeOff l s).1.shu.holds = s.shu.holds
      ∧ (writeOff l s).1.lu.day = s.lu.day
      ∧ (writeOff l s).1.mlc = s.mlc
      ∧ (writeOff l s).1.rti = s.rti
      ∧ (writeOff l s).1.pp.butEvents = s.pp.butEvents := by
  unfold writeOff
  dsimp only
  repeat' split
  all_goals simp

@[simp] theorem scanLoan_frame (a : State × List WrittenOff) (p : Nat) :
    (scanLoan a p).1.clock = a.1.clock
      ∧ (scanLoan a p).1.raceCount = a.1.raceCount
      ∧ (scanLoan a p).1.pending = a.1.pending
      ∧ (scanLoan a p).1.cfl = a.1.cfl
      ∧ (scanLoan a p).1.fli = a.1.fli
      ∧ (scanLoan a p).1.au = a.1.au
      ∧ (scanLoan a p).1.wq = a.1.wq
      ∧ (scanLoan a p).1.isc = a.1.isc
      ∧ (scanLoan a p).1.de = a.1.de
      ∧ (scanLoan a p).1.mlc = a.1.mlc
      ∧ (scanLoan a p).1.rti = a.1.rti
      ∧ (scanLoan a p).1.shu.holds = a.1.shu.holds
      ∧ (scanLoan a p).1.lu.day = a.1.lu.day
      ∧ (scanLoan a p).1.pp.butEvents = a.1.pp.butEvents := by
  unfold scanLoan
  split
  · simp
  · dsimp only
    split
    · simp
    · split
      · unfold writeOff
        split
        · simp
        · dsimp only
          split <;> simp
      · simp

theorem foldl_fst {α β γ : Type} (p : State → β) (f : State × γ → α → State × γ)
    (h : ∀ a x, p (f a x).1 = p a.1) (l : List α) (a : State × γ) : p (l.foldl f a).1 = p a.1 := by
  induction l generalizing a with
  | nil => rfl
  | cons x l ih => exact (ih (f a x)).trans (h a x)

@[simp] theorem closeWrittenOff_frame (ws : List WrittenOff) (s : State) (order : OrderSerial) :
    (closeWrittenOff ws s order).clock = s.clock
      ∧ (closeWrittenOff ws s order).raceCount = s.raceCount
      ∧ (closeWrittenOff ws s order).pending = s.pending
      ∧ (closeWrittenOff ws s order).cfl = s.cfl
      ∧ (closeWrittenOff ws s order).fli.butQueue = s.fli.butQueue
      ∧ (closeWrittenOff ws s order).au = s.au
      ∧ (closeWrittenOff ws s order).wq = s.wq
      ∧ (closeWrittenOff ws s order).isc = s.isc
      ∧ (closeWrittenOff ws s order).de = s.de
      ∧ (closeWrittenOff ws s order).cp = s.cp
      ∧ (closeWrittenOff ws s order).shu = s.shu
      ∧ (closeWrittenOff ws s order).lu.loans = s.lu.loans
      ∧ (closeWrittenOff ws s order).lu.day = s.lu.day
      ∧ (closeWrittenOff ws s order).mlc = s.mlc
      ∧ (closeWrittenOff ws s order).rti = s.rti
      ∧ (closeWrittenOff ws s order).pp = s.pp := by
  unfold closeWrittenOff
  simp

theorem pickDone_frame {order : OrderSerial} {item : ℕ} {s : State} {s' : State} (h : pickDone order item s = some s') :
    s'.clock = s.clock
      ∧ s'.raceCount = s.raceCount
      ∧ s'.pending = s.pending
      ∧ s'.cfl = s.cfl
      ∧ s'.fli = s.fli
      ∧ s'.au = s.au
      ∧ s'.wq.plan = s.wq.plan
      ∧ s'.isc = s.isc
      ∧ s'.de = s.de
      ∧ s'.cp = s.cp
      ∧ s'.shu = s.shu
      ∧ s'.lu = s.lu
      ∧ s'.mlc = s.mlc
      ∧ s'.rti = s.rti
      ∧ s'.pp = s.pp := by
  unfold pickDone at h
  repeat' split at h
  all_goals first | (cases h; simp; done) | cases h

@[simp] theorem packBundle_frame (r : WorkRecord) (s : State) (b : Bundle) :
    (packBundle r s b).clock = s.clock
      ∧ (packBundle r s b).raceCount = s.raceCount
      ∧ (packBundle r s b).pending = s.pending
      ∧ (packBundle r s b).cfl = s.cfl
      ∧ (packBundle r s b).fli = s.fli
      ∧ (packBundle r s b).au = s.au
      ∧ (packBundle r s b).wq.plan = s.wq.plan
      ∧ (packBundle r s b).isc = s.isc
      ∧ (packBundle r s b).de = s.de
      ∧ (packBundle r s b).cp = s.cp
      ∧ (packBundle r s b).shu = s.shu
      ∧ (packBundle r s b).lu = s.lu
      ∧ (packBundle r s b).rti = s.rti
      ∧ (packBundle r s b).pp = s.pp := by
  unfold packBundle
  simp

@[simp] theorem packBundles_frame (s : State) :
    (packBundles s).clock = s.clock
      ∧ (packBundles s).raceCount = s.raceCount
      ∧ (packBundles s).pending = s.pending
      ∧ (packBundles s).cfl = s.cfl
      ∧ (packBundles s).fli = s.fli
      ∧ (packBundles s).au = s.au
      ∧ (packBundles s).wq.plan = s.wq.plan
      ∧ (packBundles s).isc = s.isc
      ∧ (packBundles s).de = s.de
      ∧ (packBundles s).cp = s.cp
      ∧ (packBundles s).shu = s.shu
      ∧ (packBundles s).lu = s.lu
      ∧ (packBundles s).rti = s.rti
      ∧ (packBundles s).pp = s.pp := by
  unfold packBundles
  simp

@[simp] theorem updateLane_frame (s : State) :
    (updateLane s).clock = s.clock
      ∧ (updateLane s).raceCount = s.raceCount
      ∧ (updateLane s).pending = s.pending
      ∧ (updateLane s).cfl = s.cfl
      ∧ (updateLane s).fli = s.fli
      ∧ (updateLane s).au = s.au
      ∧ (updateLane s).wq = s.wq
      ∧ (updateLane s).isc = s.isc
      ∧ (updateLane s).de = s.de
      ∧ (updateLane s).cp = s.cp
      ∧ (updateLane s).shu = s.shu
      ∧ (updateLane s).lu = s.lu
      ∧ (updateLane s).rti = s.rti
      ∧ (updateLane s).pp.butEvents = s.pp.butEvents := by
  unfold updateLane
  repeat' split
  all_goals simp

@[simp] theorem changeSpotBundle_frame (sp : Spot) (f : Bundle → Bundle) (s : State) :
    (changeSpotBundle sp f s).clock = s.clock
      ∧ (changeSpotBundle sp f s).raceCount = s.raceCount
      ∧ (changeSpotBundle sp f s).pending = s.pending
      ∧ (changeSpotBundle sp f s).cfl = s.cfl
      ∧ (changeSpotBundle sp f s).fli = s.fli
      ∧ (changeSpotBundle sp f s).au = s.au
      ∧ (changeSpotBundle sp f s).wq.plan = s.wq.plan
      ∧ (changeSpotBundle sp f s).isc = s.isc
      ∧ (changeSpotBundle sp f s).de = s.de
      ∧ (changeSpotBundle sp f s).cp = s.cp
      ∧ (changeSpotBundle sp f s).shu = s.shu
      ∧ (changeSpotBundle sp f s).lu = s.lu
      ∧ (changeSpotBundle sp f s).mlc = s.mlc
      ∧ (changeSpotBundle sp f s).rti = s.rti
      ∧ (changeSpotBundle sp f s).pp = s.pp := by
  unfold changeSpotBundle
  simp

@[simp] theorem changeContainer_frame (sp : Spot) (f : Container → Container) (s : State) :
    (changeContainer sp f s).clock = s.clock
      ∧ (changeContainer sp f s).raceCount = s.raceCount
      ∧ (changeContainer sp f s).pending = s.pending
      ∧ (changeContainer sp f s).cfl = s.cfl
      ∧ (changeContainer sp f s).fli = s.fli
      ∧ (changeContainer sp f s).au = s.au
      ∧ (changeContainer sp f s).wq.plan = s.wq.plan
      ∧ (changeContainer sp f s).isc = s.isc
      ∧ (changeContainer sp f s).de = s.de
      ∧ (changeContainer sp f s).cp = s.cp
      ∧ (changeContainer sp f s).shu = s.shu
      ∧ (changeContainer sp f s).lu = s.lu
      ∧ (changeContainer sp f s).mlc = s.mlc
      ∧ (changeContainer sp f s).rti = s.rti
      ∧ (changeContainer sp f s).pp = s.pp := by
  unfold changeContainer
  simp

@[simp] theorem setCard_frame (tag : LoanTag) (cs : CardState) (s : State) :
    (setCard tag cs s).clock = s.clock
      ∧ (setCard tag cs s).raceCount = s.raceCount
      ∧ (setCard tag cs s).pending = s.pending
      ∧ (setCard tag cs s).cfl = s.cfl
      ∧ (setCard tag cs s).fli = s.fli
      ∧ (setCard tag cs s).au = s.au
      ∧ (setCard tag cs s).wq = s.wq
      ∧ (setCard tag cs s).isc = s.isc
      ∧ (setCard tag cs s).de = s.de
      ∧ (setCard tag cs s).cp = s.cp
      ∧ (setCard tag cs s).shu = s.shu
      ∧ (setCard tag cs s).lu = s.lu
      ∧ (setCard tag cs s).rti = s.rti
      ∧ (setCard tag cs s).pp = s.pp := by
  unfold setCard
  simp

@[simp] theorem setWriter_frame (w : Writer) (s : State) :
    (setWriter w s).clock = s.clock
      ∧ (setWriter w s).raceCount = s.raceCount
      ∧ (setWriter w s).pending = s.pending
      ∧ (setWriter w s).cfl = s.cfl
      ∧ (setWriter w s).fli = s.fli
      ∧ (setWriter w s).au = s.au
      ∧ (setWriter w s).wq = s.wq
      ∧ (setWriter w s).isc = s.isc
      ∧ (setWriter w s).de = s.de
      ∧ (setWriter w s).cp = s.cp
      ∧ (setWriter w s).shu = s.shu
      ∧ (setWriter w s).lu = s.lu
      ∧ (setWriter w s).rti = s.rti
      ∧ (setWriter w s).pp = s.pp := by
  unfold setWriter
  simp

@[simp] theorem cardContainer_frame (sp : Spot) (c : Container) (l : Loan) (s : State) :
    (cardContainer sp c l s).clock = s.clock
      ∧ (cardContainer sp c l s).raceCount = s.raceCount
      ∧ (cardContainer sp c l s).pending = s.pending
      ∧ (cardContainer sp c l s).cfl = s.cfl
      ∧ (cardContainer sp c l s).fli = s.fli
      ∧ (cardContainer sp c l s).au = s.au
      ∧ (cardContainer sp c l s).wq.plan = s.wq.plan
      ∧ (cardContainer sp c l s).isc = s.isc
      ∧ (cardContainer sp c l s).de = s.de
      ∧ (cardContainer sp c l s).shu = s.shu
      ∧ (cardContainer sp c l s).lu = s.lu
      ∧ (cardContainer sp c l s).rti = s.rti
      ∧ (cardContainer sp c l s).pp = s.pp := by
  unfold cardContainer
  simp

@[simp] theorem cardNext_frame (s : State) :
    (cardNext s).clock = s.clock
      ∧ (cardNext s).raceCount = s.raceCount
      ∧ (cardNext s).pending = s.pending
      ∧ (cardNext s).cfl = s.cfl
      ∧ (cardNext s).fli = s.fli
      ∧ (cardNext s).au = s.au
      ∧ (cardNext s).wq.plan = s.wq.plan
      ∧ (cardNext s).isc = s.isc
      ∧ (cardNext s).de = s.de
      ∧ (cardNext s).shu = s.shu
      ∧ (cardNext s).lu.day = s.lu.day
      ∧ (cardNext s).rti = s.rti
      ∧ (cardNext s).pp = s.pp := by
  unfold cardNext
  (repeat' split) <;> first | (simp; done) | (rename_i h; have k := congrArg Prod.fst h; dsimp only at k; subst k; simp; done)

@[simp] theorem mlcStage_frame (s : State) :
    (mlcStage s).clock = s.clock
      ∧ (mlcStage s).raceCount = s.raceCount
      ∧ (mlcStage s).pending = s.pending
      ∧ (mlcStage s).cfl = s.cfl
      ∧ (mlcStage s).fli = s.fli
      ∧ (mlcStage s).au = s.au
      ∧ (mlcStage s).wq.plan = s.wq.plan
      ∧ (mlcStage s).isc = s.isc
      ∧ (mlcStage s).de = s.de
      ∧ (mlcStage s).shu = s.shu
      ∧ (mlcStage s).lu.day = s.lu.day
      ∧ (mlcStage s).rti = s.rti
      ∧ (mlcStage s).pp.butEvents = s.pp.butEvents := by
  unfold mlcStage
  simp

@[simp] theorem laneIfPrinted_frame (tag : LoanTag) (s : State) :
    (laneIfPrinted tag s).clock = s.clock
      ∧ (laneIfPrinted tag s).raceCount = s.raceCount
      ∧ (laneIfPrinted tag s).pending = s.pending
      ∧ (laneIfPrinted tag s).cfl = s.cfl
      ∧ (laneIfPrinted tag s).fli = s.fli
      ∧ (laneIfPrinted tag s).au = s.au
      ∧ (laneIfPrinted tag s).wq.plan = s.wq.plan
      ∧ (laneIfPrinted tag s).isc = s.isc
      ∧ (laneIfPrinted tag s).de = s.de
      ∧ (laneIfPrinted tag s).cp = s.cp
      ∧ (laneIfPrinted tag s).shu = s.shu
      ∧ (laneIfPrinted tag s).lu = s.lu
      ∧ (laneIfPrinted tag s).mlc = s.mlc
      ∧ (laneIfPrinted tag s).rti = s.rti
      ∧ (laneIfPrinted tag s).pp = s.pp := by
  unfold laneIfPrinted
  repeat' split
  all_goals simp

@[simp] theorem cardDone_frame (tag : LoanTag) (s : State) :
    (cardDone tag s).clock = s.clock
      ∧ (cardDone tag s).raceCount = s.raceCount
      ∧ (cardDone tag s).pending = s.pending
      ∧ (cardDone tag s).cfl = s.cfl
      ∧ (cardDone tag s).fli = s.fli
      ∧ (cardDone tag s).au = s.au
      ∧ (cardDone tag s).wq.plan = s.wq.plan
      ∧ (cardDone tag s).isc = s.isc
      ∧ (cardDone tag s).de = s.de
      ∧ (cardDone tag s).cp = s.cp
      ∧ (cardDone tag s).shu = s.shu
      ∧ (cardDone tag s).lu = s.lu
      ∧ (cardDone tag s).rti = s.rti
      ∧ (cardDone tag s).pp = s.pp := by
  unfold cardDone
  simp

@[simp] theorem cardFails_frame (tag : LoanTag) (s : State) :
    (cardFails tag s).clock = s.clock
      ∧ (cardFails tag s).raceCount = s.raceCount
      ∧ (cardFails tag s).pending = s.pending
      ∧ (cardFails tag s).cfl = s.cfl
      ∧ (cardFails tag s).fli = s.fli
      ∧ (cardFails tag s).au = s.au
      ∧ (cardFails tag s).wq = s.wq
      ∧ (cardFails tag s).isc = s.isc
      ∧ (cardFails tag s).de = s.de
      ∧ (cardFails tag s).cp = s.cp
      ∧ (cardFails tag s).shu = s.shu
      ∧ (cardFails tag s).lu = s.lu
      ∧ (cardFails tag s).rti = s.rti
      ∧ (cardFails tag s).pp.butEvents = s.pp.butEvents := by
  unfold cardFails
  simp

@[simp] theorem cardFaulted_frame (tag : LoanTag) (s : State) :
    (cardFaulted tag s).clock = s.clock
      ∧ (cardFaulted tag s).raceCount = s.raceCount
      ∧ (cardFaulted tag s).pending = s.pending
      ∧ (cardFaulted tag s).cfl = s.cfl
      ∧ (cardFaulted tag s).fli = s.fli
      ∧ (cardFaulted tag s).au = s.au
      ∧ (cardFaulted tag s).wq = s.wq
      ∧ (cardFaulted tag s).isc = s.isc
      ∧ (cardFaulted tag s).de = s.de
      ∧ (cardFaulted tag s).cp = s.cp
      ∧ (cardFaulted tag s).shu = s.shu
      ∧ (cardFaulted tag s).lu = s.lu
      ∧ (cardFaulted tag s).rti = s.rti
      ∧ (cardFaulted tag s).pp.butEvents = s.pp.butEvents := by
  unfold cardFaulted
  simp

@[simp] theorem cardOverdue_frame (s : State) :
    (cardOverdue s).clock = s.clock
      ∧ (cardOverdue s).raceCount = s.raceCount
      ∧ (cardOverdue s).pending = s.pending
      ∧ (cardOverdue s).cfl = s.cfl
      ∧ (cardOverdue s).fli = s.fli
      ∧ (cardOverdue s).au = s.au
      ∧ (cardOverdue s).wq = s.wq
      ∧ (cardOverdue s).isc = s.isc
      ∧ (cardOverdue s).de = s.de
      ∧ (cardOverdue s).cp = s.cp
      ∧ (cardOverdue s).shu = s.shu
      ∧ (cardOverdue s).lu = s.lu
      ∧ (cardOverdue s).rti = s.rti
      ∧ (cardOverdue s).pp.butEvents = s.pp.butEvents := by
  unfold cardOverdue
  split <;> simp

@[simp] theorem cardSent_frame (s : State) :
    (cardSent s).clock = s.clock
      ∧ (cardSent s).raceCount = s.raceCount
      ∧ (cardSent s).pending = s.pending
      ∧ (cardSent s).cfl = s.cfl
      ∧ (cardSent s).fli = s.fli
      ∧ (cardSent s).au = s.au
      ∧ (cardSent s).wq = s.wq
      ∧ (cardSent s).isc = s.isc
      ∧ (cardSent s).de = s.de
      ∧ (cardSent s).cp = s.cp
      ∧ (cardSent s).shu = s.shu
      ∧ (cardSent s).lu = s.lu
      ∧ (cardSent s).rti = s.rti
      ∧ (cardSent s).pp = s.pp := by
  unfold cardSent
  split <;> simp

theorem cardRewrite_frame {s : State} {s' : State} (h : cardRewrite s = some s') :
    s'.clock = s.clock
      ∧ s'.raceCount = s.raceCount
      ∧ s'.pending = s.pending
      ∧ s'.cfl = s.cfl
      ∧ s'.fli = s.fli
      ∧ s'.au = s.au
      ∧ s'.wq = s.wq
      ∧ s'.isc = s.isc
      ∧ s'.de = s.de
      ∧ s'.cp = s.cp
      ∧ s'.shu = s.shu
      ∧ s'.lu = s.lu
      ∧ s'.rti = s.rti
      ∧ s'.pp = s.pp := by unfold cardRewrite at h; (repeat' split at h) <;> first | (cases h; simp; done) | (cases h; done) | (cases h; split <;> simp; done) | simp_all

@[simp] theorem uncard_frame (tag : LoanTag) (s : State) :
    (uncard tag s).clock = s.clock
      ∧ (uncard tag s).raceCount = s.raceCount
      ∧ (uncard tag s).pending = s.pending
      ∧ (uncard tag s).cfl = s.cfl
      ∧ (uncard tag s).fli = s.fli
      ∧ (uncard tag s).au = s.au
      ∧ (uncard tag s).wq.plan = s.wq.plan
      ∧ (uncard tag s).isc = s.isc
      ∧ (uncard tag s).de = s.de
      ∧ (uncard tag s).shu = s.shu
      ∧ (uncard tag s).lu = s.lu
      ∧ (uncard tag s).mlc = s.mlc
      ∧ (uncard tag s).rti = s.rti
      ∧ (uncard tag s).pp = s.pp := by
  unfold uncard
  split <;> simp

theorem withdrawContainer_frame {tag : LoanTag} {s : State} {s' : State} (h : withdrawContainer tag s = some s') :
    s'.clock = s.clock
      ∧ s'.raceCount = s.raceCount
      ∧ s'.pending = s.pending
      ∧ s'.cfl = s.cfl
      ∧ s'.fli = s.fli
      ∧ s'.au = s.au
      ∧ s'.wq.plan = s.wq.plan
      ∧ s'.isc = s.isc
      ∧ s'.de = s.de
      ∧ s'.shu = s.shu
      ∧ s'.lu.day = s.lu.day
      ∧ s'.rti = s.rti
      ∧ s'.pp = s.pp := by
  unfold withdrawContainer at h
  repeat' split at h
  all_goals first | (cases h; simp; done) | cases h

@[simp] theorem setGate_frame (g : Gate) (s : State) :
    (setGate g s).clock = s.clock
      ∧ (setGate g s).raceCount = s.raceCount
      ∧ (setGate g s).pending = s.pending
      ∧ (setGate g s).cfl = s.cfl
      ∧ (setGate g s).fli = s.fli
      ∧ (setGate g s).au = s.au
      ∧ (setGate g s).wq = s.wq
      ∧ (setGate g s).isc = s.isc
      ∧ (setGate g s).de = s.de
      ∧ (setGate g s).cp = s.cp
      ∧ (setGate g s).shu = s.shu
      ∧ (setGate g s).lu = s.lu
      ∧ (setGate g s).rti = s.rti
      ∧ (setGate g s).pp = s.pp := by
  unfold setGate
  simp

@[simp] theorem aimGate_frame (tag : Option LoanTag) (bin : ℕ) (s : State) :
    (aimGate tag bin s).clock = s.clock
      ∧ (aimGate tag bin s).raceCount = s.raceCount
      ∧ (aimGate tag bin s).pending = s.pending
      ∧ (aimGate tag bin s).cfl = s.cfl
      ∧ (aimGate tag bin s).fli = s.fli
      ∧ (aimGate tag bin s).au = s.au
      ∧ (aimGate tag bin s).wq = s.wq
      ∧ (aimGate tag bin s).isc = s.isc
      ∧ (aimGate tag bin s).de = s.de
      ∧ (aimGate tag bin s).cp = s.cp
      ∧ (aimGate tag bin s).shu = s.shu
      ∧ (aimGate tag bin s).lu = s.lu
      ∧ (aimGate tag bin s).rti = s.rti
      ∧ (aimGate tag bin s).pp = s.pp := by
  unfold aimGate
  simp

@[simp] theorem detect_frame (s : State) :
    (detect s).clock = s.clock
      ∧ (detect s).raceCount = s.raceCount
      ∧ (detect s).pending = s.pending
      ∧ (detect s).cfl = s.cfl
      ∧ (detect s).fli = s.fli
      ∧ (detect s).au = s.au
      ∧ (detect s).wq = s.wq
      ∧ (detect s).isc = s.isc
      ∧ (detect s).de = s.de
      ∧ (detect s).cp = s.cp
      ∧ (detect s).shu = s.shu
      ∧ (detect s).lu = s.lu
      ∧ (detect s).rti = s.rti
      ∧ (detect s).pp.butEvents = s.pp.butEvents := by
  unfold detect
  repeat' split
  all_goals simp

@[simp] theorem retryGate_frame (s : State) :
    (retryGate s).clock = s.clock
      ∧ (retryGate s).raceCount = s.raceCount
      ∧ (retryGate s).pending = s.pending
      ∧ (retryGate s).cfl = s.cfl
      ∧ (retryGate s).fli = s.fli
      ∧ (retryGate s).au = s.au
      ∧ (retryGate s).wq = s.wq
      ∧ (retryGate s).isc = s.isc
      ∧ (retryGate s).de = s.de
      ∧ (retryGate s).cp = s.cp
      ∧ (retryGate s).shu = s.shu
      ∧ (retryGate s).lu = s.lu
      ∧ (retryGate s).rti = s.rti
      ∧ (retryGate s).pp = s.pp := by
  unfold retryGate
  split <;> simp

@[simp] theorem changeBin_frame (b : ℕ) (f : Bin → Bin) (s : State) :
    (changeBin b f s).clock = s.clock
      ∧ (changeBin b f s).raceCount = s.raceCount
      ∧ (changeBin b f s).pending = s.pending
      ∧ (changeBin b f s).cfl = s.cfl
      ∧ (changeBin b f s).fli = s.fli
      ∧ (changeBin b f s).au = s.au
      ∧ (changeBin b f s).wq = s.wq
      ∧ (changeBin b f s).isc = s.isc
      ∧ (changeBin b f s).de = s.de
      ∧ (changeBin b f s).cp = s.cp
      ∧ (changeBin b f s).shu = s.shu
      ∧ (changeBin b f s).lu = s.lu
      ∧ (changeBin b f s).rti = s.rti
      ∧ (changeBin b f s).pp = s.pp := by
  unfold changeBin
  simp

@[simp] theorem countEntry_frame (tag : Option LoanTag) (bin : ℕ) (s : State) :
    (countEntry tag bin s).clock = s.clock
      ∧ (countEntry tag bin s).raceCount = s.raceCount
      ∧ (countEntry tag bin s).pending = s.pending
      ∧ (countEntry tag bin s).cfl = s.cfl
      ∧ (countEntry tag bin s).fli = s.fli
      ∧ (countEntry tag bin s).au = s.au
      ∧ (countEntry tag bin s).wq = s.wq
      ∧ (countEntry tag bin s).isc = s.isc
      ∧ (countEntry tag bin s).de = s.de
      ∧ (countEntry tag bin s).cp = s.cp
      ∧ (countEntry tag bin s).shu = s.shu
      ∧ (countEntry tag bin s).lu = s.lu
      ∧ (countEntry tag bin s).rti = s.rti
      ∧ (countEntry tag bin s).pp.butEvents = s.pp.butEvents := by
  unfold countEntry
  simp

@[simp] theorem shelfEntry_frame (b : Bundle) (c : Container) (s : State) :
    (shelfEntry b c s).clock = s.clock
      ∧ (shelfEntry b c s).raceCount = s.raceCount
      ∧ (shelfEntry b c s).pending = s.pending
      ∧ (shelfEntry b c s).cfl = s.cfl
      ∧ (shelfEntry b c s).fli = s.fli
      ∧ (shelfEntry b c s).au = s.au
      ∧ (shelfEntry b c s).wq = s.wq
      ∧ (shelfEntry b c s).isc = s.isc
      ∧ (shelfEntry b c s).de = s.de
      ∧ (shelfEntry b c s).cp = s.cp
      ∧ (shelfEntry b c s).shu.holds = s.shu.holds
      ∧ (shelfEntry b c s).lu = s.lu
      ∧ (shelfEntry b c s).mlc = s.mlc
      ∧ (shelfEntry b c s).rti = s.rti
      ∧ (shelfEntry b c s).pp = s.pp := by
  unfold shelfEntry
  split <;> simp

@[simp] theorem mailIfEntered_frame (sp : Spot) (s : State) :
    (mailIfEntered sp s).clock = s.clock
      ∧ (mailIfEntered sp s).raceCount = s.raceCount
      ∧ (mailIfEntered sp s).pending = s.pending
      ∧ (mailIfEntered sp s).cfl = s.cfl
      ∧ (mailIfEntered sp s).fli.butQueue = s.fli.butQueue
      ∧ (mailIfEntered sp s).au = s.au
      ∧ (mailIfEntered sp s).isc = s.isc
      ∧ (mailIfEntered sp s).de = s.de
      ∧ (mailIfEntered sp s).lu = s.lu
      ∧ (mailIfEntered sp s).rti = s.rti
      ∧ (mailIfEntered sp s).pp.butEvents = s.pp.butEvents := by
  unfold mailIfEntered
  split <;> simp

@[simp] theorem enterContainer_frame (tag : LoanTag) (s : State) :
    (enterContainer tag s).clock = s.clock
      ∧ (enterContainer tag s).raceCount = s.raceCount
      ∧ (enterContainer tag s).pending = s.pending
      ∧ (enterContainer tag s).cfl = s.cfl
      ∧ (enterContainer tag s).fli.butQueue = s.fli.butQueue
      ∧ (enterContainer tag s).au = s.au
      ∧ (enterContainer tag s).isc = s.isc
      ∧ (enterContainer tag s).de = s.de
      ∧ (enterContainer tag s).lu.day = s.lu.day
      ∧ (enterContainer tag s).rti = s.rti
      ∧ (enterContainer tag s).pp.butEvents = s.pp.butEvents := by
  unfold enterContainer
  dsimp only
  repeat' split
  all_goals simp

@[simp] theorem acknowledge_frame (s : State) :
    (acknowledge s).clock = s.clock
      ∧ (acknowledge s).raceCount = s.raceCount
      ∧ (acknowledge s).pending = s.pending
      ∧ (acknowledge s).cfl = s.cfl
      ∧ (acknowledge s).fli.butQueue = s.fli.butQueue
      ∧ (acknowledge s).au = s.au
      ∧ (acknowledge s).isc = s.isc
      ∧ (acknowledge s).de = s.de
      ∧ (acknowledge s).lu.day = s.lu.day
      ∧ (acknowledge s).rti = s.rti
      ∧ (acknowledge s).pp.butEvents = s.pp.butEvents := by
  unfold acknowledge
  repeat' split
  all_goals simp

@[simp] theorem writeManifest_frame (bin : ℕ) (b : Bin) (s : State) :
    (writeManifest bin b s).clock = s.clock
      ∧ (writeManifest bin b s).raceCount = s.raceCount
      ∧ (writeManifest bin b s).pending = s.pending
      ∧ (writeManifest bin b s).cfl = s.cfl
      ∧ (writeManifest bin b s).fli = s.fli
      ∧ (writeManifest bin b s).au = s.au
      ∧ (writeManifest bin b s).wq = s.wq
      ∧ (writeManifest bin b s).isc = s.isc
      ∧ (writeManifest bin b s).de = s.de
      ∧ (writeManifest bin b s).cp = s.cp
      ∧ (writeManifest bin b s).shu = s.shu
      ∧ (writeManifest bin b s).lu = s.lu
      ∧ (writeManifest bin b s).rti = s.rti
      ∧ (writeManifest bin b s).pp = s.pp := by
  unfold writeManifest
  simp

theorem sackChanged_frame {bin : ℕ} {s : State} {s' : State} (h : sackChanged bin s = some s') :
    s'.clock = s.clock
      ∧ s'.raceCount = s.raceCount
      ∧ s'.pending = s.pending
      ∧ s'.cfl = s.cfl
      ∧ s'.fli = s.fli
      ∧ s'.au = s.au
      ∧ s'.wq = s.wq
      ∧ s'.isc = s.isc
      ∧ s'.de = s.de
      ∧ s'.cp = s.cp
      ∧ s'.shu = s.shu
      ∧ s'.lu = s.lu
      ∧ s'.rti = s.rti
      ∧ s'.pp = s.pp := by
  unfold sackChanged at h
  repeat' split at h
  all_goals first | (cases h; simp; done) | cases h

theorem sackClose_frame {bin : ℕ} {s : State} {s' : State} (h : sackClose bin s = some s') :
    s'.clock = s.clock
      ∧ s'.raceCount = s.raceCount
      ∧ s'.pending = s.pending
      ∧ s'.cfl = s.cfl
      ∧ s'.fli = s.fli
      ∧ s'.au = s.au
      ∧ s'.wq = s.wq
      ∧ s'.isc = s.isc
      ∧ s'.de = s.de
      ∧ s'.cp = s.cp
      ∧ s'.shu = s.shu
      ∧ s'.lu = s.lu
      ∧ s'.rti = s.rti
      ∧ s'.pp = s.pp := by
  unfold sackClose at h
  repeat' split at h
  all_goals first | (cases h; simp; done) | cases h

@[simp] theorem shelfStage_frame (s : State) :
    (shelfStage s).clock = s.clock
      ∧ (shelfStage s).raceCount = s.raceCount
      ∧ (shelfStage s).pending = s.pending
      ∧ (shelfStage s).cfl = s.cfl
      ∧ (shelfStage s).fli.butQueue = s.fli.butQueue
      ∧ (shelfStage s).au = s.au
      ∧ (shelfStage s).wq.plan = s.wq.plan
      ∧ (shelfStage s).isc = s.isc
      ∧ (shelfStage s).de = s.de
      ∧ (shelfStage s).cp = s.cp
      ∧ (shelfStage s).lu = s.lu
      ∧ (shelfStage s).mlc = s.mlc
      ∧ (shelfStage s).rti = s.rti
      ∧ (shelfStage s).pp.butEvents = s.pp.butEvents := by
  unfold shelfStage
  simp

@[simp] theorem passSlice_frame (s : State) :
    (passSlice s).clock = s.clock
      ∧ (passSlice s).pending = s.pending
      ∧ (passSlice s).cfl = s.cfl
      ∧ (passSlice s).fli = s.fli
      ∧ (passSlice s).au = s.au
      ∧ (passSlice s).wq = s.wq
      ∧ (passSlice s).isc = s.isc
      ∧ (passSlice s).cp = s.cp
      ∧ (passSlice s).shu = s.shu
      ∧ (passSlice s).lu = s.lu
      ∧ (passSlice s).mlc = s.mlc
      ∧ (passSlice s).rti = s.rti
      ∧ (passSlice s).pp = s.pp := by
  unfold passSlice
  split
  · split <;> simp
  · simp

@[simp] theorem checkStage_frame (s : State) :
    (checkStage s).clock = s.clock
      ∧ (checkStage s).pending = s.pending
      ∧ (checkStage s).cfl = s.cfl
      ∧ (checkStage s).fli.butQueue = s.fli.butQueue
      ∧ (checkStage s).au = s.au
      ∧ (checkStage s).isc.crcArea = s.isc.crcArea
      ∧ (checkStage s).isc.store = s.isc.store
      ∧ (checkStage s).lu = s.lu
      ∧ (checkStage s).mlc = s.mlc
      ∧ (checkStage s).rti = s.rti
      ∧ (checkStage s).pp.butEvents = s.pp.butEvents := by
  unfold checkStage
  dsimp only
  split <;> simp

@[simp] theorem rackStage_frame (s : State) :
    (rackStage s).clock = s.clock
      ∧ (rackStage s).pending = s.pending
      ∧ (rackStage s).cfl = s.cfl
      ∧ (rackStage s).fli.butQueue = s.fli.butQueue
      ∧ (rackStage s).au = s.au
      ∧ (rackStage s).isc.store = s.isc.store
      ∧ (rackStage s).isc.crcArea = s.isc.crcArea
      ∧ (rackStage s).lu = s.lu
      ∧ (rackStage s).mlc = s.mlc
      ∧ (rackStage s).rti = s.rti
      ∧ (rackStage s).pp.butEvents = s.pp.butEvents := by
  unfold rackStage
  simp

@[simp] theorem fullStage_frame (s : State) :
    (fullStage s).clock = s.clock
      ∧ (fullStage s).pending = s.pending
      ∧ (fullStage s).cfl = s.cfl
      ∧ (fullStage s).fli.butQueue = s.fli.butQueue
      ∧ (fullStage s).au = s.au
      ∧ (fullStage s).isc.store = s.isc.store
      ∧ (fullStage s).isc.crcArea = s.isc.crcArea
      ∧ (fullStage s).lu.day = s.lu.day
      ∧ (fullStage s).rti = s.rti
      ∧ (fullStage s).pp.butEvents = s.pp.butEvents := by
  unfold fullStage
  simp

@[simp] theorem chutePresent_frame (s : State) :
    (chutePresent s).clock = s.clock
      ∧ (chutePresent s).raceCount = s.raceCount
      ∧ (chutePresent s).pending = s.pending
      ∧ (chutePresent s).cfl = s.cfl
      ∧ (chutePresent s).fli = s.fli
      ∧ (chutePresent s).au = s.au
      ∧ (chutePresent s).wq = s.wq
      ∧ (chutePresent s).isc = s.isc
      ∧ (chutePresent s).de = s.de
      ∧ (chutePresent s).cp = s.cp
      ∧ (chutePresent s).shu = s.shu
      ∧ (chutePresent s).lu = s.lu
      ∧ (chutePresent s).mlc = s.mlc
      ∧ (chutePresent s).pp = s.pp := by
  unfold chutePresent
  simp

@[simp] theorem routeTo_frame (r : Route) (s : State) :
    (routeTo r s).clock = s.clock
      ∧ (routeTo r s).raceCount = s.raceCount
      ∧ (routeTo r s).pending = s.pending
      ∧ (routeTo r s).cfl = s.cfl
      ∧ (routeTo r s).fli = s.fli
      ∧ (routeTo r s).au = s.au
      ∧ (routeTo r s).wq = s.wq
      ∧ (routeTo r s).isc = s.isc
      ∧ (routeTo r s).de = s.de
      ∧ (routeTo r s).cp = s.cp
      ∧ (routeTo r s).shu = s.shu
      ∧ (routeTo r s).lu = s.lu
      ∧ (routeTo r s).mlc = s.mlc
      ∧ (routeTo r s).pp = s.pp := by
  unfold routeTo
  simp

@[simp] theorem strayReturn_frame (c : Card) (s : State) :
    (strayReturn c s).1.clock = s.clock
      ∧ (strayReturn c s).1.raceCount = s.raceCount
      ∧ (strayReturn c s).1.pending = s.pending
      ∧ (strayReturn c s).1.cfl = s.cfl
      ∧ (strayReturn c s).1.fli = s.fli
      ∧ (strayReturn c s).1.au = s.au
      ∧ (strayReturn c s).1.wq.records = s.wq.records
      ∧ (strayReturn c s).1.isc = s.isc
      ∧ (strayReturn c s).1.de = s.de
      ∧ (strayReturn c s).1.lu = s.lu
      ∧ (strayReturn c s).1.mlc = s.mlc
      ∧ (strayReturn c s).1.rti = s.rti
      ∧ (strayReturn c s).1.pp.butEvents = s.pp.butEvents
      ∧ (strayReturn c s).1.shu.holds = s.shu.holds := by
  unfold strayReturn
  dsimp only
  split
  · simp
  · split
    · simp
    · split
      · split
        · rename_i h
          simp [strayCopy_frame h]
        · simp
      · simp

@[simp] theorem otherReturn_frame (c : Card) (s : State) :
    (otherReturn c s).1.clock = s.clock
      ∧ (otherReturn c s).1.raceCount = s.raceCount
      ∧ (otherReturn c s).1.pending = s.pending
      ∧ (otherReturn c s).1.cfl = s.cfl
      ∧ (otherReturn c s).1.fli.butQueue = s.fli.butQueue
      ∧ (otherReturn c s).1.au = s.au
      ∧ (otherReturn c s).1.wq.records = s.wq.records
      ∧ (otherReturn c s).1.isc = s.isc
      ∧ (otherReturn c s).1.de = s.de
      ∧ (otherReturn c s).1.shu = s.shu
      ∧ (otherReturn c s).1.lu = s.lu
      ∧ (otherReturn c s).1.mlc = s.mlc
      ∧ (otherReturn c s).1.pp = s.pp := by
  unfold otherReturn
  split <;> simp

@[simp] theorem unreadable_frame (reason : ReturnReason) (s : State) :
    (unreadable reason s).clock = s.clock
      ∧ (unreadable reason s).raceCount = s.raceCount
      ∧ (unreadable reason s).pending = s.pending
      ∧ (unreadable reason s).cfl = s.cfl
      ∧ (unreadable reason s).fli = s.fli
      ∧ (unreadable reason s).au = s.au
      ∧ (unreadable reason s).wq = s.wq
      ∧ (unreadable reason s).isc = s.isc
      ∧ (unreadable reason s).de = s.de
      ∧ (unreadable reason s).cp = s.cp
      ∧ (unreadable reason s).shu = s.shu
      ∧ (unreadable reason s).lu = s.lu
      ∧ (unreadable reason s).mlc = s.mlc
      ∧ (unreadable reason s).pp.butEvents = s.pp.butEvents := by
  unfold unreadable
  simp

@[simp] theorem chuteFails_frame (s : State) :
    (chuteFails s).clock = s.clock
      ∧ (chuteFails s).raceCount = s.raceCount
      ∧ (chuteFails s).pending = s.pending
      ∧ (chuteFails s).cfl = s.cfl
      ∧ (chuteFails s).fli = s.fli
      ∧ (chuteFails s).au = s.au
      ∧ (chuteFails s).wq = s.wq
      ∧ (chuteFails s).isc = s.isc
      ∧ (chuteFails s).de = s.de
      ∧ (chuteFails s).cp = s.cp
      ∧ (chuteFails s).shu = s.shu
      ∧ (chuteFails s).lu = s.lu
      ∧ (chuteFails s).mlc = s.mlc
      ∧ (chuteFails s).pp.butEvents = s.pp.butEvents := by
  unfold chuteFails
  simp

@[simp] theorem chuteLate_frame (s : State) :
    (chuteLate s).clock = s.clock
      ∧ (chuteLate s).raceCount = s.raceCount
      ∧ (chuteLate s).pending = s.pending
      ∧ (chuteLate s).cfl = s.cfl
      ∧ (chuteLate s).fli = s.fli
      ∧ (chuteLate s).au = s.au
      ∧ (chuteLate s).wq = s.wq
      ∧ (chuteLate s).isc = s.isc
      ∧ (chuteLate s).de = s.de
      ∧ (chuteLate s).cp = s.cp
      ∧ (chuteLate s).shu = s.shu
      ∧ (chuteLate s).lu = s.lu
      ∧ (chuteLate s).mlc = s.mlc
      ∧ (chuteLate s).pp.butEvents = s.pp.butEvents := by
  unfold chuteLate
  simp

@[simp] theorem routeEnds_frame (s : State) :
    (routeEnds s).clock = s.clock
      ∧ (routeEnds s).raceCount = s.raceCount
      ∧ (routeEnds s).pending = s.pending
      ∧ (routeEnds s).cfl = s.cfl
      ∧ (routeEnds s).fli = s.fli
      ∧ (routeEnds s).au = s.au
      ∧ (routeEnds s).wq = s.wq
      ∧ (routeEnds s).isc = s.isc
      ∧ (routeEnds s).de = s.de
      ∧ (routeEnds s).cp = s.cp
      ∧ (routeEnds s).shu = s.shu
      ∧ (routeEnds s).lu = s.lu
      ∧ (routeEnds s).mlc = s.mlc
      ∧ (routeEnds s).pp = s.pp := by
  unfold routeEnds
  simp

@[simp] theorem hearReturn_frame (f : Received) (s : State) :
    (hearReturn f s).clock = s.clock
      ∧ (hearReturn f s).raceCount = s.raceCount
      ∧ (hearReturn f s).pending = s.pending
      ∧ (hearReturn f s).cfl = s.cfl
      ∧ (hearReturn f s).fli = s.fli
      ∧ (hearReturn f s).au = s.au
      ∧ (hearReturn f s).wq = s.wq
      ∧ (hearReturn f s).isc = s.isc
      ∧ (hearReturn f s).de = s.de
      ∧ (hearReturn f s).shu = s.shu
      ∧ (hearReturn f s).lu.day = s.lu.day
      ∧ (hearReturn f s).mlc = s.mlc
      ∧ (hearReturn f s).rti = s.rti
      ∧ (hearReturn f s).pp = s.pp := by
  unfold hearReturn
  simp

@[simp] theorem makeEntry_frame (order : OrderSerial) (o : Offer) (s : State) :
    (makeEntry order o s).clock = s.clock
      ∧ (makeEntry order o s).raceCount = s.raceCount
      ∧ (makeEntry order o s).pending = s.pending
      ∧ (makeEntry order o s).cfl = s.cfl
      ∧ (makeEntry order o s).fli.butQueue = s.fli.butQueue
      ∧ (makeEntry order o s).wq = s.wq
      ∧ (makeEntry order o s).isc = s.isc
      ∧ (makeEntry order o s).de = s.de
      ∧ (makeEntry order o s).cp = s.cp
      ∧ (makeEntry order o s).shu = s.shu
      ∧ (makeEntry order o s).lu = s.lu
      ∧ (makeEntry order o s).mlc = s.mlc
      ∧ (makeEntry order o s).rti = s.rti
      ∧ (makeEntry order o s).pp = s.pp := by
  unfold makeEntry
  simp

@[simp] theorem countMalformed_frame (s : State) :
    (countMalformed s).clock = s.clock
      ∧ (countMalformed s).raceCount = s.raceCount
      ∧ (countMalformed s).pending = s.pending
      ∧ (countMalformed s).cfl = s.cfl
      ∧ (countMalformed s).fli = s.fli
      ∧ (countMalformed s).au.entries = s.au.entries
      ∧ (countMalformed s).wq = s.wq
      ∧ (countMalformed s).isc = s.isc
      ∧ (countMalformed s).de = s.de
      ∧ (countMalformed s).cp = s.cp
      ∧ (countMalformed s).shu = s.shu
      ∧ (countMalformed s).lu = s.lu
      ∧ (countMalformed s).mlc = s.mlc
      ∧ (countMalformed s).rti = s.rti
      ∧ (countMalformed s).pp = s.pp := by
  unfold countMalformed
  simp

@[simp] theorem hearOffer_frame (f : Received) (s : State) :
    (hearOffer f s).clock = s.clock
      ∧ (hearOffer f s).raceCount = s.raceCount
      ∧ (hearOffer f s).pending = s.pending
      ∧ (hearOffer f s).cfl = s.cfl
      ∧ (hearOffer f s).fli.butQueue = s.fli.butQueue
      ∧ (hearOffer f s).wq = s.wq
      ∧ (hearOffer f s).isc = s.isc
      ∧ (hearOffer f s).de = s.de
      ∧ (hearOffer f s).cp = s.cp
      ∧ (hearOffer f s).shu = s.shu
      ∧ (hearOffer f s).lu = s.lu
      ∧ (hearOffer f s).mlc = s.mlc
      ∧ (hearOffer f s).rti = s.rti
      ∧ (hearOffer f s).pp = s.pp := by
  unfold hearOffer
  split <;> simp

@[simp] theorem hearBid_frame (f : Received) (s : State) :
    (hearBid f s).clock = s.clock
      ∧ (hearBid f s).raceCount = s.raceCount
      ∧ (hearBid f s).pending = s.pending
      ∧ (hearBid f s).cfl = s.cfl
      ∧ (hearBid f s).fli = s.fli
      ∧ (hearBid f s).wq = s.wq
      ∧ (hearBid f s).isc.directory = s.isc.directory
      ∧ (hearBid f s).isc.store = s.isc.store
      ∧ (hearBid f s).isc.crcArea = s.isc.crcArea
      ∧ (hearBid f s).de = s.de
      ∧ (hearBid f s).cp = s.cp
      ∧ (hearBid f s).shu = s.shu
      ∧ (hearBid f s).lu = s.lu
      ∧ (hearBid f s).mlc = s.mlc
      ∧ (hearBid f s).rti = s.rti
      ∧ (hearBid f s).pp = s.pp := by
  unfold hearBid
  split <;> simp

@[simp] theorem freeAuction_frame (order : OrderSerial) (s : State) :
    (freeAuction order s).clock = s.clock
      ∧ (freeAuction order s).raceCount = s.raceCount
      ∧ (freeAuction order s).pending = s.pending
      ∧ (freeAuction order s).cfl = s.cfl
      ∧ (freeAuction order s).fli = s.fli
      ∧ (freeAuction order s).wq = s.wq
      ∧ (freeAuction order s).isc = s.isc
      ∧ (freeAuction order s).de = s.de
      ∧ (freeAuction order s).cp = s.cp
      ∧ (freeAuction order s).shu = s.shu
      ∧ (freeAuction order s).lu = s.lu
      ∧ (freeAuction order s).mlc = s.mlc
      ∧ (freeAuction order s).rti = s.rti
      ∧ (freeAuction order s).pp = s.pp := by
  unfold freeAuction
  simp

@[simp] theorem takeOrder_frame (e : AuctionEntry) (s : State) :
    (takeOrder e s).clock = s.clock
      ∧ (takeOrder e s).raceCount = s.raceCount
      ∧ (takeOrder e s).pending = s.pending
      ∧ (takeOrder e s).cfl = s.cfl
      ∧ (takeOrder e s).fli.butQueue = s.fli.butQueue
      ∧ (takeOrder e s).isc = s.isc
      ∧ (takeOrder e s).cp = s.cp
      ∧ (takeOrder e s).lu = s.lu
      ∧ (takeOrder e s).mlc = s.mlc
      ∧ (takeOrder e s).rti = s.rti
      ∧ (takeOrder e s).pp.butEvents = s.pp.butEvents := by
  unfold takeOrder
  simp

@[simp] theorem closeWindow_frame (e : AuctionEntry) (s : State) :
    (closeWindow e s).clock = s.clock
      ∧ (closeWindow e s).pending = s.pending
      ∧ (closeWindow e s).cfl = s.cfl
      ∧ (closeWindow e s).isc.directory = s.isc.directory
      ∧ (closeWindow e s).isc.store = s.isc.store
      ∧ (closeWindow e s).isc.crcArea = s.isc.crcArea
      ∧ (closeWindow e s).cp = s.cp
      ∧ (closeWindow e s).lu.loans = s.lu.loans
      ∧ (closeWindow e s).lu.day = s.lu.day
      ∧ (closeWindow e s).mlc = s.mlc
      ∧ (closeWindow e s).pp.butEvents = s.pp.butEvents := by
  unfold closeWindow
  simp

@[simp] theorem windowReached_frame (order : OrderSerial) (s : State) :
    (windowReached order s).clock = s.clock
      ∧ (windowReached order s).pending = s.pending
      ∧ (windowReached order s).cfl = s.cfl
      ∧ (windowReached order s).isc.directory = s.isc.directory
      ∧ (windowReached order s).isc.store = s.isc.store
      ∧ (windowReached order s).isc.crcArea = s.isc.crcArea
      ∧ (windowReached order s).cp = s.cp
      ∧ (windowReached order s).lu.loans = s.lu.loans
      ∧ (windowReached order s).lu.day = s.lu.day
      ∧ (windowReached order s).mlc = s.mlc
      ∧ (windowReached order s).pp.butEvents = s.pp.butEvents := by
  unfold windowReached
  split <;> simp

@[simp] theorem takeReached_frame (order : OrderSerial) (s : State) :
    (takeReached order s).clock = s.clock
      ∧ (takeReached order s).raceCount = s.raceCount
      ∧ (takeReached order s).pending = s.pending
      ∧ (takeReached order s).cfl = s.cfl
      ∧ (takeReached order s).fli.butQueue = s.fli.butQueue
      ∧ (takeReached order s).isc = s.isc
      ∧ (takeReached order s).cp = s.cp
      ∧ (takeReached order s).lu = s.lu
      ∧ (takeReached order s).mlc = s.mlc
      ∧ (takeReached order s).rti = s.rti
      ∧ (takeReached order s).pp.butEvents = s.pp.butEvents := by
  unfold takeReached
  split <;> simp

@[simp] theorem dropAuction_frame (order : OrderSerial) (s : State) :
    (dropAuction order s).clock = s.clock
      ∧ (dropAuction order s).pending = s.pending
      ∧ (dropAuction order s).cfl = s.cfl
      ∧ (dropAuction order s).wq.records = s.wq.records
      ∧ (dropAuction order s).wq.plan = s.wq.plan
      ∧ (dropAuction order s).isc.directory = s.isc.directory
      ∧ (dropAuction order s).isc.store = s.isc.store
      ∧ (dropAuction order s).isc.crcArea = s.isc.crcArea
      ∧ (dropAuction order s).de = s.de
      ∧ (dropAuction order s).cp = s.cp
      ∧ (dropAuction order s).shu.holds = s.shu.holds
      ∧ (dropAuction order s).lu.loans = s.lu.loans
      ∧ (dropAuction order s).lu.day = s.lu.day
      ∧ (dropAuction order s).mlc = s.mlc
      ∧ (dropAuction order s).pp = s.pp := by
  unfold dropAuction
  split <;> simp

@[simp] theorem compareTake_frame (f : Received) (s : State) :
    (compareTake f s).clock = s.clock
      ∧ (compareTake f s).raceCount = s.raceCount
      ∧ (compareTake f s).pending = s.pending
      ∧ (compareTake f s).cfl = s.cfl
      ∧ (compareTake f s).fli.butQueue = s.fli.butQueue
      ∧ (compareTake f s).au.entries = s.au.entries
      ∧ (compareTake f s).isc = s.isc
      ∧ (compareTake f s).lu = s.lu
      ∧ (compareTake f s).mlc = s.mlc
      ∧ (compareTake f s).rti = s.rti
      ∧ (compareTake f s).pp.butEvents = s.pp.butEvents := by
  unfold compareTake
  split <;> simp

@[simp] theorem hearTake_frame (f : Received) (s : State) :
    (hearTake f s).clock = s.clock
      ∧ (hearTake f s).pending = s.pending
      ∧ (hearTake f s).cfl = s.cfl
      ∧ (hearTake f s).isc.directory = s.isc.directory
      ∧ (hearTake f s).isc.store = s.isc.store
      ∧ (hearTake f s).isc.crcArea = s.isc.crcArea
      ∧ (hearTake f s).lu.loans = s.lu.loans
      ∧ (hearTake f s).lu.day = s.lu.day
      ∧ (hearTake f s).mlc = s.mlc
      ∧ (hearTake f s).pp.butEvents = s.pp.butEvents := by
  unfold hearTake
  simp

@[simp] theorem closeOrder_writtenOff (order : OrderSerial) (s : State) : closeOrder order .writtenOff s = s := rfl

/-- A CLOSED of any other outcome drops the entry, and abandons a record taken whole (R38, R43). -/
theorem closeOrder_of_ne {o : Outcome} (h : o ≠ .writtenOff) (order : OrderSerial) (s : State) :
    closeOrder order o s =
      if (takenRecordOf (dropAuction order s) order).isSome then abandonOrder order (dropAuction order s)
      else dropAuction order s := by
  cases o <;> first | rfl | exact absurd rfl h

@[simp] theorem closeOrder_frame (order : OrderSerial) (o : Outcome) (s : State) :
    (closeOrder order o s).clock = s.clock
      ∧ (closeOrder order o s).pending = s.pending
      ∧ (closeOrder order o s).cfl = s.cfl
      ∧ (closeOrder order o s).isc.directory = s.isc.directory
      ∧ (closeOrder order o s).isc.store = s.isc.store
      ∧ (closeOrder order o s).isc.crcArea = s.isc.crcArea
      ∧ (closeOrder order o s).lu.loans = s.lu.loans
      ∧ (closeOrder order o s).lu.day = s.lu.day
      ∧ (closeOrder order o s).mlc = s.mlc
      ∧ (closeOrder order o s).pp.butEvents = s.pp.butEvents := by
  unfold closeOrder
  repeat' split
  all_goals simp

@[simp] theorem hearClosed_frame (f : Received) (s : State) :
    (hearClosed f s).clock = s.clock
      ∧ (hearClosed f s).pending = s.pending
      ∧ (hearClosed f s).cfl = s.cfl
      ∧ (hearClosed f s).isc.directory = s.isc.directory
      ∧ (hearClosed f s).isc.store = s.isc.store
      ∧ (hearClosed f s).isc.crcArea = s.isc.crcArea
      ∧ (hearClosed f s).lu.loans = s.lu.loans
      ∧ (hearClosed f s).lu.day = s.lu.day
      ∧ (hearClosed f s).mlc = s.mlc
      ∧ (hearClosed f s).pp.butEvents = s.pp.butEvents := by
  unfold hearClosed
  split <;> simp

@[simp] theorem hearCancel_frame (f : Received) (s : State) :
    (hearCancel f s).clock = s.clock
      ∧ (hearCancel f s).pending = s.pending
      ∧ (hearCancel f s).cfl = s.cfl
      ∧ (hearCancel f s).isc.directory = s.isc.directory
      ∧ (hearCancel f s).isc.store = s.isc.store
      ∧ (hearCancel f s).isc.crcArea = s.isc.crcArea
      ∧ (hearCancel f s).lu.loans = s.lu.loans
      ∧ (hearCancel f s).lu.day = s.lu.day
      ∧ (hearCancel f s).mlc = s.mlc
      ∧ (hearCancel f s).pp.butEvents = s.pp.butEvents := by
  unfold hearCancel
  simp

@[simp] theorem mute_frame (s : State) :
    (mute s).clock = s.clock
      ∧ (mute s).raceCount = s.raceCount
      ∧ (mute s).pending = s.pending
      ∧ (mute s).cfl = s.cfl
      ∧ (mute s).wq.records = s.wq.records
      ∧ (mute s).wq.plan = s.wq.plan
      ∧ (mute s).isc.store = s.isc.store
      ∧ (mute s).isc.crcArea = s.isc.crcArea
      ∧ (mute s).de = s.de
      ∧ (mute s).cp = s.cp
      ∧ (mute s).shu.holds = s.shu.holds
      ∧ (mute s).lu.loans = s.lu.loans
      ∧ (mute s).lu.day = s.lu.day
      ∧ (mute s).mlc = s.mlc
      ∧ (mute s).pp.butEvents = s.pp.butEvents := by
  unfold mute
  simp

@[simp] theorem clash_frame (s : State) :
    (clash s).clock = s.clock
      ∧ (clash s).pending = s.pending
      ∧ (clash s).cfl = s.cfl
      ∧ (clash s).isc.store = s.isc.store
      ∧ (clash s).isc.crcArea = s.isc.crcArea
      ∧ (clash s).lu.day = s.lu.day
      ∧ (clash s).pp.butEvents = s.pp.butEvents := by
  unfold clash
  simp

@[simp] theorem restartTurns_frame (line : LineLevel) (last : Station) (s : State) :
    (restartTurns line last s).clock = s.clock
      ∧ (restartTurns line last s).raceCount = s.raceCount
      ∧ (restartTurns line last s).pending = s.pending
      ∧ (restartTurns line last s).cfl = s.cfl
      ∧ (restartTurns line last s).au = s.au
      ∧ (restartTurns line last s).wq = s.wq
      ∧ (restartTurns line last s).isc = s.isc
      ∧ (restartTurns line last s).de = s.de
      ∧ (restartTurns line last s).cp = s.cp
      ∧ (restartTurns line last s).shu = s.shu
      ∧ (restartTurns line last s).lu = s.lu
      ∧ (restartTurns line last s).mlc = s.mlc
      ∧ (restartTurns line last s).rti = s.rti
      ∧ (restartTurns line last s).pp = s.pp := by
  unfold restartTurns
  simp

@[simp] theorem lineSeen_frame (sight : LineSight) (s : State) :
    (lineSeen sight s).clock = s.clock
      ∧ (lineSeen sight s).raceCount = s.raceCount
      ∧ (lineSeen sight s).pending = s.pending
      ∧ (lineSeen sight s).cfl = s.cfl
      ∧ (lineSeen sight s).au = s.au
      ∧ (lineSeen sight s).wq = s.wq
      ∧ (lineSeen sight s).isc = s.isc
      ∧ (lineSeen sight s).de = s.de
      ∧ (lineSeen sight s).cp = s.cp
      ∧ (lineSeen sight s).shu = s.shu
      ∧ (lineSeen sight s).lu = s.lu
      ∧ (lineSeen sight s).mlc = s.mlc
      ∧ (lineSeen sight s).rti = s.rti
      ∧ (lineSeen sight s).pp = s.pp := by
  unfold lineSeen
  repeat' split
  all_goals simp

@[simp] theorem joinedQuiet_frame (s : State) :
    (joinedQuiet s).clock = s.clock
      ∧ (joinedQuiet s).raceCount = s.raceCount
      ∧ (joinedQuiet s).pending = s.pending
      ∧ (joinedQuiet s).cfl = s.cfl
      ∧ (joinedQuiet s).au = s.au
      ∧ (joinedQuiet s).wq = s.wq
      ∧ (joinedQuiet s).isc = s.isc
      ∧ (joinedQuiet s).de = s.de
      ∧ (joinedQuiet s).cp = s.cp
      ∧ (joinedQuiet s).shu = s.shu
      ∧ (joinedQuiet s).lu = s.lu
      ∧ (joinedQuiet s).mlc = s.mlc
      ∧ (joinedQuiet s).rti = s.rti
      ∧ (joinedQuiet s).pp = s.pp := by
  unfold joinedQuiet
  split <;> simp

@[simp] theorem beginFrame_frame (what : Sending) (f : Frame) (s : State) :
    (beginFrame what f s).clock = s.clock
      ∧ (beginFrame what f s).raceCount = s.raceCount
      ∧ (beginFrame what f s).pending = s.pending
      ∧ (beginFrame what f s).cfl = s.cfl
      ∧ (beginFrame what f s).au = s.au
      ∧ (beginFrame what f s).wq = s.wq
      ∧ (beginFrame what f s).isc = s.isc
      ∧ (beginFrame what f s).de = s.de
      ∧ (beginFrame what f s).cp = s.cp
      ∧ (beginFrame what f s).shu = s.shu
      ∧ (beginFrame what f s).lu = s.lu
      ∧ (beginFrame what f s).mlc = s.mlc
      ∧ (beginFrame what f s).rti = s.rti
      ∧ (beginFrame what f s).pp = s.pp := by
  unfold beginFrame
  simp

@[simp] theorem turnComes_frame (s : State) :
    (turnComes s).clock = s.clock
      ∧ (turnComes s).raceCount = s.raceCount
      ∧ (turnComes s).pending = s.pending
      ∧ (turnComes s).cfl = s.cfl
      ∧ (turnComes s).au = s.au
      ∧ (turnComes s).wq = s.wq
      ∧ (turnComes s).isc.directory = s.isc.directory
      ∧ (turnComes s).isc.store = s.isc.store
      ∧ (turnComes s).isc.crcArea = s.isc.crcArea
      ∧ (turnComes s).de = s.de
      ∧ (turnComes s).cp = s.cp
      ∧ (turnComes s).shu = s.shu
      ∧ (turnComes s).lu = s.lu
      ∧ (turnComes s).mlc = s.mlc
      ∧ (turnComes s).rti = s.rti
      ∧ (turnComes s).pp = s.pp := by
  unfold turnComes
  repeat' split
  all_goals simp

@[simp] theorem takeOffLine_frame (x : StreamNo) (s : State) :
    (takeOffLine x s).clock = s.clock
      ∧ (takeOffLine x s).raceCount = s.raceCount
      ∧ (takeOffLine x s).pending = s.pending
      ∧ (takeOffLine x s).cfl = s.cfl
      ∧ (takeOffLine x s).fli = s.fli
      ∧ (takeOffLine x s).au = s.au
      ∧ (takeOffLine x s).wq = s.wq
      ∧ (takeOffLine x s).isc.directory = s.isc.directory
      ∧ (takeOffLine x s).isc.store = s.isc.store
      ∧ (takeOffLine x s).isc.crcArea = s.isc.crcArea
      ∧ (takeOffLine x s).de = s.de
      ∧ (takeOffLine x s).cp = s.cp
      ∧ (takeOffLine x s).shu = s.shu
      ∧ (takeOffLine x s).lu = s.lu
      ∧ (takeOffLine x s).mlc = s.mlc
      ∧ (takeOffLine x s).rti = s.rti
      ∧ (takeOffLine x s).pp = s.pp := by
  unfold takeOffLine
  split <;> simp

@[simp] theorem collide_frame (s : State) :
    (collide s).clock = s.clock
      ∧ (collide s).pending = s.pending
      ∧ (collide s).cfl = s.cfl
      ∧ (collide s).wq.records = s.wq.records
      ∧ (collide s).wq.plan = s.wq.plan
      ∧ (collide s).isc.directory = s.isc.directory
      ∧ (collide s).isc.store = s.isc.store
      ∧ (collide s).isc.crcArea = s.isc.crcArea
      ∧ (collide s).de = s.de
      ∧ (collide s).cp = s.cp
      ∧ (collide s).shu.holds = s.shu.holds
      ∧ (collide s).lu.loans = s.lu.loans
      ∧ (collide s).lu.day = s.lu.day
      ∧ (collide s).mlc = s.mlc
      ∧ (collide s).pp = s.pp := by
  unfold collide
  repeat' split
  all_goals simp

@[simp] theorem noteCompleted_frame (f : Frame) (s : State) :
    (noteCompleted f s).clock = s.clock
      ∧ (noteCompleted f s).raceCount = s.raceCount
      ∧ (noteCompleted f s).pending = s.pending
      ∧ (noteCompleted f s).cfl = s.cfl
      ∧ (noteCompleted f s).fli = s.fli
      ∧ (noteCompleted f s).wq = s.wq
      ∧ (noteCompleted f s).isc.directory = s.isc.directory
      ∧ (noteCompleted f s).isc.store = s.isc.store
      ∧ (noteCompleted f s).isc.crcArea = s.isc.crcArea
      ∧ (noteCompleted f s).de = s.de
      ∧ (noteCompleted f s).cp = s.cp
      ∧ (noteCompleted f s).shu = s.shu
      ∧ (noteCompleted f s).lu = s.lu
      ∧ (noteCompleted f s).mlc = s.mlc
      ∧ (noteCompleted f s).rti = s.rti
      ∧ (noteCompleted f s).pp = s.pp := by
  unfold noteCompleted
  split <;> simp

@[simp] theorem completeFrame_frame (s : State) :
    (completeFrame s).clock = s.clock
      ∧ (completeFrame s).pending = s.pending
      ∧ (completeFrame s).cfl = s.cfl
      ∧ (completeFrame s).isc.store = s.isc.store
      ∧ (completeFrame s).isc.crcArea = s.isc.crcArea
      ∧ (completeFrame s).lu.loans = s.lu.loans
      ∧ (completeFrame s).lu.day = s.lu.day
      ∧ (completeFrame s).mlc = s.mlc
      ∧ (completeFrame s).pp.butEvents = s.pp.butEvents := by
  unfold completeFrame
  repeat' split
  all_goals simp

@[simp] theorem writePointer_frame (table : Byte) (s : State) :
    (writePointer table s).clock = s.clock
      ∧ (writePointer table s).raceCount = s.raceCount
      ∧ (writePointer table s).pending = s.pending
      ∧ (writePointer table s).cfl = s.cfl
      ∧ (writePointer table s).fli = s.fli
      ∧ (writePointer table s).au = s.au
      ∧ (writePointer table s).wq = s.wq
      ∧ (writePointer table s).isc = s.isc
      ∧ (writePointer table s).de = s.de
      ∧ (writePointer table s).cp = s.cp
      ∧ (writePointer table s).shu = s.shu
      ∧ (writePointer table s).lu = s.lu
      ∧ (writePointer table s).mlc = s.mlc
      ∧ (writePointer table s).rti = s.rti := by
  unfold writePointer
  simp

@[simp] theorem fetchEvent_frame (s : State) :
    (fetchEvent s).clock = s.clock
      ∧ (fetchEvent s).raceCount = s.raceCount
      ∧ (fetchEvent s).pending = s.pending
      ∧ (fetchEvent s).cfl = s.cfl
      ∧ (fetchEvent s).fli = s.fli
      ∧ (fetchEvent s).au = s.au
      ∧ (fetchEvent s).wq = s.wq
      ∧ (fetchEvent s).isc = s.isc
      ∧ (fetchEvent s).de = s.de
      ∧ (fetchEvent s).cp = s.cp
      ∧ (fetchEvent s).shu = s.shu
      ∧ (fetchEvent s).lu = s.lu
      ∧ (fetchEvent s).mlc = s.mlc
      ∧ (fetchEvent s).rti = s.rti := by
  unfold fetchEvent
  simp

@[simp] theorem fetchRecord_frame (s : State) :
    (fetchRecord s).clock = s.clock
      ∧ (fetchRecord s).raceCount = s.raceCount
      ∧ (fetchRecord s).pending = s.pending
      ∧ (fetchRecord s).cfl = s.cfl
      ∧ (fetchRecord s).fli = s.fli
      ∧ (fetchRecord s).au = s.au
      ∧ (fetchRecord s).wq = s.wq
      ∧ (fetchRecord s).isc = s.isc
      ∧ (fetchRecord s).de = s.de
      ∧ (fetchRecord s).cp = s.cp
      ∧ (fetchRecord s).shu = s.shu
      ∧ (fetchRecord s).lu = s.lu
      ∧ (fetchRecord s).mlc = s.mlc
      ∧ (fetchRecord s).rti = s.rti := by
  unfold fetchRecord
  simp

@[simp] theorem fetchNext_frame (s : State) :
    (fetchNext s).clock = s.clock
      ∧ (fetchNext s).raceCount = s.raceCount
      ∧ (fetchNext s).pending = s.pending
      ∧ (fetchNext s).cfl = s.cfl
      ∧ (fetchNext s).fli = s.fli
      ∧ (fetchNext s).au = s.au
      ∧ (fetchNext s).wq = s.wq
      ∧ (fetchNext s).isc = s.isc
      ∧ (fetchNext s).de = s.de
      ∧ (fetchNext s).cp = s.cp
      ∧ (fetchNext s).shu = s.shu
      ∧ (fetchNext s).lu = s.lu
      ∧ (fetchNext s).mlc = s.mlc
      ∧ (fetchNext s).rti = s.rti := by
  unfold fetchNext
  simp

@[simp] theorem readData_frame (s : State) :
    (readData s).clock = s.clock
      ∧ (readData s).raceCount = s.raceCount
      ∧ (readData s).pending = s.pending
      ∧ (readData s).cfl = s.cfl
      ∧ (readData s).fli = s.fli
      ∧ (readData s).au = s.au
      ∧ (readData s).wq = s.wq
      ∧ (readData s).isc = s.isc
      ∧ (readData s).de = s.de
      ∧ (readData s).cp = s.cp
      ∧ (readData s).shu = s.shu
      ∧ (readData s).lu = s.lu
      ∧ (readData s).mlc = s.mlc
      ∧ (readData s).rti = s.rti := by
  unfold readData
  simp

@[simp] theorem writeLatch_frame (place : LatchPlace) (b : Byte) (s : State) :
    (writeLatch place b s).clock = s.clock
      ∧ (writeLatch place b s).raceCount = s.raceCount
      ∧ (writeLatch place b s).pending = s.pending
      ∧ (writeLatch place b s).cfl = s.cfl
      ∧ (writeLatch place b s).fli = s.fli
      ∧ (writeLatch place b s).au = s.au
      ∧ (writeLatch place b s).wq = s.wq
      ∧ (writeLatch place b s).isc = s.isc
      ∧ (writeLatch place b s).de = s.de
      ∧ (writeLatch place b s).cp = s.cp
      ∧ (writeLatch place b s).shu = s.shu
      ∧ (writeLatch place b s).lu = s.lu
      ∧ (writeLatch place b s).mlc = s.mlc
      ∧ (writeLatch place b s).rti = s.rti := by
  unfold writeLatch
  split <;> simp

@[simp] theorem ignoreCommand_frame (b : Byte) (s : State) :
    (ignoreCommand b s).clock = s.clock
      ∧ (ignoreCommand b s).raceCount = s.raceCount
      ∧ (ignoreCommand b s).pending = s.pending
      ∧ (ignoreCommand b s).cfl = s.cfl
      ∧ (ignoreCommand b s).fli = s.fli
      ∧ (ignoreCommand b s).au = s.au
      ∧ (ignoreCommand b s).wq = s.wq
      ∧ (ignoreCommand b s).isc = s.isc
      ∧ (ignoreCommand b s).de = s.de
      ∧ (ignoreCommand b s).cp = s.cp
      ∧ (ignoreCommand b s).shu = s.shu
      ∧ (ignoreCommand b s).lu = s.lu
      ∧ (ignoreCommand b s).mlc = s.mlc
      ∧ (ignoreCommand b s).rti = s.rti := by
  unfold ignoreCommand
  simp

@[simp] theorem startCommand_frame (b : Byte) (s : State) :
    (startCommand b s).clock = s.clock
      ∧ (startCommand b s).raceCount = s.raceCount
      ∧ (startCommand b s).pending = s.pending
      ∧ (startCommand b s).cfl = s.cfl
      ∧ (startCommand b s).fli = s.fli
      ∧ (startCommand b s).au = s.au
      ∧ (startCommand b s).wq = s.wq
      ∧ (startCommand b s).isc = s.isc
      ∧ (startCommand b s).de = s.de
      ∧ (startCommand b s).cp = s.cp
      ∧ (startCommand b s).shu = s.shu
      ∧ (startCommand b s).lu = s.lu
      ∧ (startCommand b s).mlc = s.mlc
      ∧ (startCommand b s).rti = s.rti := by
  unfold startCommand
  simp

@[simp] theorem endCommand_frame (o : CommandOutcome) (s : State) :
    (endCommand o s).clock = s.clock
      ∧ (endCommand o s).raceCount = s.raceCount
      ∧ (endCommand o s).pending = s.pending
      ∧ (endCommand o s).cfl = s.cfl
      ∧ (endCommand o s).fli = s.fli
      ∧ (endCommand o s).au = s.au
      ∧ (endCommand o s).wq = s.wq
      ∧ (endCommand o s).isc = s.isc
      ∧ (endCommand o s).de = s.de
      ∧ (endCommand o s).cp = s.cp
      ∧ (endCommand o s).shu = s.shu
      ∧ (endCommand o s).lu = s.lu
      ∧ (endCommand o s).mlc = s.mlc
      ∧ (endCommand o s).rti = s.rti := by
  unfold endCommand
  simp

theorem actPickDone_frame {w : TakenCommand} {s : State} {s' : State} (h : actPickDone w s = some s') :
    s'.clock = s.clock
      ∧ s'.raceCount = s.raceCount
      ∧ s'.pending = s.pending
      ∧ s'.cfl = s.cfl
      ∧ s'.fli = s.fli
      ∧ s'.au = s.au
      ∧ s'.wq.plan = s.wq.plan
      ∧ s'.isc = s.isc
      ∧ s'.de = s.de
      ∧ s'.shu = s.shu
      ∧ s'.lu.day = s.lu.day
      ∧ s'.rti = s.rti
      ∧ s'.pp.butEvents = s.pp.butEvents := by unfold actPickDone at h; (repeat' split at h) <;> first | (cases h; done) | (simp only [Option.map_eq_some_iff] at h; obtain ⟨a, h, rfl⟩ := h; simp [pickDone_frame h]; done)

theorem actShelfAdd_frame {w : TakenCommand} {s : State} {s' : State} (h : actShelfAdd w s = some s') :
    s'.clock = s.clock
      ∧ s'.raceCount = s.raceCount
      ∧ s'.pending = s.pending
      ∧ s'.cfl = s.cfl
      ∧ s'.fli.butQueue = s.fli.butQueue
      ∧ s'.au = s.au
      ∧ s'.wq.plan = s.wq.plan
      ∧ s'.isc = s.isc
      ∧ s'.de = s.de
      ∧ s'.cp = s.cp
      ∧ s'.lu = s.lu
      ∧ s'.mlc = s.mlc
      ∧ s'.rti = s.rti
      ∧ s'.pp.butEvents = s.pp.butEvents := by unfold actShelfAdd at h; (repeat' split at h) <;> first | (cases h; done) | (simp only [Option.map_eq_some_iff] at h; obtain ⟨a, h, rfl⟩ := h; simp [shelfAdd_frame h]; done)

theorem actShelfWithdraw_frame {w : TakenCommand} {s : State} {s' : State} (h : actShelfWithdraw w s = some s') :
    s'.clock = s.clock
      ∧ s'.raceCount = s.raceCount
      ∧ s'.pending = s.pending
      ∧ s'.cfl = s.cfl
      ∧ s'.fli = s.fli
      ∧ s'.au = s.au
      ∧ s'.wq = s.wq
      ∧ s'.isc = s.isc
      ∧ s'.de = s.de
      ∧ s'.cp = s.cp
      ∧ s'.shu.holds = s.shu.holds
      ∧ s'.lu = s.lu
      ∧ s'.mlc = s.mlc
      ∧ s'.rti = s.rti
      ∧ s'.pp = s.pp := by unfold actShelfWithdraw at h; (repeat' split at h) <;> first | (cases h; done) | simp [shelfWithdraw_frame h]

theorem actSackChanged_frame {w : TakenCommand} {s : State} {s' : State} (h : actSackChanged w s = some s') :
    s'.clock = s.clock
      ∧ s'.raceCount = s.raceCount
      ∧ s'.pending = s.pending
      ∧ s'.cfl = s.cfl
      ∧ s'.fli = s.fli
      ∧ s'.au = s.au
      ∧ s'.wq = s.wq
      ∧ s'.isc = s.isc
      ∧ s'.de = s.de
      ∧ s'.cp = s.cp
      ∧ s'.shu = s.shu
      ∧ s'.lu = s.lu
      ∧ s'.rti = s.rti
      ∧ s'.pp.butEvents = s.pp.butEvents := by unfold actSackChanged at h; (repeat' split at h) <;> first | (cases h; done) | (simp only [Option.map_eq_some_iff] at h; obtain ⟨a, h, rfl⟩ := h; simp [sackChanged_frame h]; done)

theorem actSackClose_frame {w : TakenCommand} {s : State} {s' : State} (h : actSackClose w s = some s') :
    s'.clock = s.clock
      ∧ s'.raceCount = s.raceCount
      ∧ s'.pending = s.pending
      ∧ s'.cfl = s.cfl
      ∧ s'.fli = s.fli
      ∧ s'.au = s.au
      ∧ s'.wq = s.wq
      ∧ s'.isc = s.isc
      ∧ s'.de = s.de
      ∧ s'.cp = s.cp
      ∧ s'.shu = s.shu
      ∧ s'.lu = s.lu
      ∧ s'.rti = s.rti
      ∧ s'.pp = s.pp := by unfold actSackClose at h; (repeat' split at h) <;> first | (cases h; done) | simp [sackClose_frame h]

theorem actPause_frame {s : State} {s' : State} (h : actPause s = some s') :
    s'.clock = s.clock
      ∧ s'.raceCount = s.raceCount
      ∧ s'.pending = s.pending
      ∧ s'.cfl = s.cfl
      ∧ s'.fli = s.fli
      ∧ s'.au = s.au
      ∧ s'.wq = s.wq
      ∧ s'.isc = s.isc
      ∧ s'.de = s.de
      ∧ s'.cp = s.cp
      ∧ s'.shu.holds = s.shu.holds
      ∧ s'.lu = s.lu
      ∧ s'.mlc = s.mlc
      ∧ s'.rti = s.rti := by
  unfold actPause at h
  repeat' split at h
  all_goals first | (cases h; simp; done) | cases h

theorem actResume_frame {s : State} {s' : State} (h : actResume s = some s') :
    s'.clock = s.clock
      ∧ s'.raceCount = s.raceCount
      ∧ s'.pending = s.pending
      ∧ s'.cfl = s.cfl
      ∧ s'.fli.butQueue = s.fli.butQueue
      ∧ s'.au = s.au
      ∧ s'.wq = s.wq
      ∧ s'.isc = s.isc
      ∧ s'.de = s.de
      ∧ s'.cp = s.cp
      ∧ s'.shu.holds = s.shu.holds
      ∧ s'.lu = s.lu
      ∧ s'.mlc = s.mlc
      ∧ s'.rti = s.rti := by
  unfold actResume at h
  repeat' split at h
  all_goals first | (cases h; simp; done) | cases h

@[simp] theorem startPanel_frame (inp : ResetInputs) (s : State) :
    (startPanel inp s).clock = s.clock
      ∧ (startPanel inp s).raceCount = s.raceCount
      ∧ (startPanel inp s).pending = s.pending
      ∧ (startPanel inp s).wq = s.wq
      ∧ (startPanel inp s).isc = s.isc
      ∧ (startPanel inp s).cp = s.cp
      ∧ (startPanel inp s).shu = s.shu
      ∧ (startPanel inp s).lu = s.lu
      ∧ (startPanel inp s).mlc = s.mlc
      ∧ (startPanel inp s).rti = s.rti := by
  unfold startPanel
  simp

@[simp] theorem raiseConfigFaults_frame (inp : ResetInputs) (s : State) :
    (raiseConfigFaults inp s).clock = s.clock
      ∧ (raiseConfigFaults inp s).raceCount = s.raceCount
      ∧ (raiseConfigFaults inp s).pending = s.pending
      ∧ (raiseConfigFaults inp s).cfl = s.cfl
      ∧ (raiseConfigFaults inp s).fli = s.fli
      ∧ (raiseConfigFaults inp s).au = s.au
      ∧ (raiseConfigFaults inp s).wq = s.wq
      ∧ (raiseConfigFaults inp s).isc = s.isc
      ∧ (raiseConfigFaults inp s).de = s.de
      ∧ (raiseConfigFaults inp s).cp = s.cp
      ∧ (raiseConfigFaults inp s).shu = s.shu
      ∧ (raiseConfigFaults inp s).lu = s.lu
      ∧ (raiseConfigFaults inp s).mlc = s.mlc
      ∧ (raiseConfigFaults inp s).rti = s.rti
      ∧ (raiseConfigFaults inp s).pp.butEvents = s.pp.butEvents := by
  unfold raiseConfigFaults
  simp

@[simp] theorem emptyTables_frame (s : State) :
    (emptyTables s).clock = s.clock
      ∧ (emptyTables s).raceCount = s.raceCount
      ∧ (emptyTables s).pending = s.pending
      ∧ (emptyTables s).cfl = s.cfl
      ∧ (emptyTables s).fli = s.fli
      ∧ (emptyTables s).au = s.au
      ∧ (emptyTables s).isc.store = s.isc.store
      ∧ (emptyTables s).isc.crcArea = s.isc.crcArea
      ∧ (emptyTables s).de = s.de
      ∧ (emptyTables s).pp = s.pp := by
  unfold emptyTables
  simp

@[simp] theorem resetCart_frame (s : State) (r : CartRecord) :
    (resetCart s r).clock = s.clock
      ∧ (resetCart s r).raceCount = s.raceCount
      ∧ (resetCart s r).pending = s.pending
      ∧ (resetCart s r).cfl = s.cfl
      ∧ (resetCart s r).fli = s.fli
      ∧ (resetCart s r).au = s.au
      ∧ (resetCart s r).wq = s.wq
      ∧ (resetCart s r).isc = s.isc
      ∧ (resetCart s r).de = s.de
      ∧ (resetCart s r).shu = s.shu
      ∧ (resetCart s r).lu = s.lu
      ∧ (resetCart s r).mlc = s.mlc
      ∧ (resetCart s r).rti = s.rti
      ∧ (resetCart s r).pp = s.pp := by
  unfold resetCart
  split <;> simp

@[simp] theorem resetPool_frame (s : State) :
    (resetPool s).clock = s.clock
      ∧ (resetPool s).raceCount = s.raceCount
      ∧ (resetPool s).pending = s.pending
      ∧ (resetPool s).cfl = s.cfl
      ∧ (resetPool s).fli = s.fli
      ∧ (resetPool s).au = s.au
      ∧ (resetPool s).wq = s.wq
      ∧ (resetPool s).isc = s.isc
      ∧ (resetPool s).de = s.de
      ∧ (resetPool s).shu = s.shu
      ∧ (resetPool s).lu = s.lu
      ∧ (resetPool s).mlc = s.mlc
      ∧ (resetPool s).rti = s.rti
      ∧ (resetPool s).pp = s.pp := by
  unfold resetPool
  simp

@[simp] theorem resetLinks_frame (s : State) :
    (resetLinks s).clock = s.clock
      ∧ (resetLinks s).raceCount = s.raceCount
      ∧ (resetLinks s).pending = s.pending
      ∧ (resetLinks s).cfl = s.cfl
      ∧ (resetLinks s).fli = s.fli
      ∧ (resetLinks s).au = s.au
      ∧ (resetLinks s).wq.records = s.wq.records
      ∧ (resetLinks s).isc = s.isc
      ∧ (resetLinks s).cp = s.cp
      ∧ (resetLinks s).de = s.de
      ∧ (resetLinks s).shu = s.shu
      ∧ (resetLinks s).lu = s.lu
      ∧ (resetLinks s).mlc = s.mlc
      ∧ (resetLinks s).rti = s.rti
      ∧ (resetLinks s).pp = s.pp := by
  unfold resetLinks
  simp

/-- All that the clearing of links does to the plan store (R69). -/
@[simp] theorem resetLinks_plan (s : State) :
    (resetLinks s).wq.plan = s.wq.plan.map (fun e => (e.1, e.2.afterReset s)) := rfl

theorem afterReset_cases (s : State) (pc : PlannedCart) :
    (pc.written = false ∧ (∃ r, pc.link.bind (cartOf s) = some r ∧ r.state = .dirty)
        ∧ pc.afterReset s = ({ pc with link := none, loadAsked := false } : PlannedCart).refigure (nominalG s))
      ∨ pc.afterReset s = pc := by
  unfold PlannedCart.afterReset
  split
  · rename_i h
    simp only [Bool.and_eq_true, Bool.not_eq_true', Option.any_eq_true, beq_iff_eq] at h
    exact .inl ⟨h.1, h.2, rfl⟩
  · exact .inr rfl

@[simp] theorem resetWork_frame (s : State) :
    (resetWork s).clock = s.clock
      ∧ (resetWork s).raceCount = s.raceCount
      ∧ (resetWork s).pending = s.pending
      ∧ (resetWork s).cfl = s.cfl
      ∧ (resetWork s).fli = s.fli
      ∧ (resetWork s).au = s.au
      ∧ (resetWork s).isc = s.isc
      ∧ (resetWork s).cp = s.cp
      ∧ (resetWork s).de = s.de
      ∧ (resetWork s).shu = s.shu
      ∧ (resetWork s).lu = s.lu
      ∧ (resetWork s).mlc = s.mlc
      ∧ (resetWork s).rti = s.rti
      ∧ (resetWork s).pp.butEvents = s.pp.butEvents := by
  unfold resetWork
  simp

@[simp] theorem resetStore_frame (s : State) :
    (resetStore s).clock = s.clock
      ∧ (resetStore s).raceCount = s.raceCount
      ∧ (resetStore s).pending = s.pending
      ∧ (resetStore s).cfl = s.cfl
      ∧ (resetStore s).fli = s.fli
      ∧ (resetStore s).au = s.au
      ∧ (resetStore s).wq = s.wq
      ∧ (resetStore s).isc.store = s.isc.store
      ∧ (resetStore s).isc.crcArea = s.isc.crcArea
      ∧ (resetStore s).de = s.de
      ∧ (resetStore s).cp = s.cp
      ∧ (resetStore s).shu = s.shu
      ∧ (resetStore s).lu = s.lu
      ∧ (resetStore s).mlc = s.mlc
      ∧ (resetStore s).rti = s.rti
      ∧ (resetStore s).pp = s.pp := by
  unfold resetStore
  simp

@[simp] theorem resetShelf_frame (s : State) :
    (resetShelf s).clock = s.clock
      ∧ (resetShelf s).raceCount = s.raceCount
      ∧ (resetShelf s).pending = s.pending
      ∧ (resetShelf s).cfl = s.cfl
      ∧ (resetShelf s).fli = s.fli
      ∧ (resetShelf s).au = s.au
      ∧ (resetShelf s).wq = s.wq
      ∧ (resetShelf s).isc = s.isc
      ∧ (resetShelf s).de = s.de
      ∧ (resetShelf s).cp = s.cp
      ∧ (resetShelf s).lu = s.lu
      ∧ (resetShelf s).mlc = s.mlc
      ∧ (resetShelf s).rti = s.rti
      ∧ (resetShelf s).pp = s.pp := by
  unfold resetShelf
  simp

@[simp] theorem resetLoans_frame (s : State) :
    (resetLoans s).clock = s.clock
      ∧ (resetLoans s).raceCount = s.raceCount
      ∧ (resetLoans s).pending = s.pending
      ∧ (resetLoans s).cfl = s.cfl
      ∧ (resetLoans s).fli = s.fli
      ∧ (resetLoans s).au = s.au
      ∧ (resetLoans s).wq = s.wq
      ∧ (resetLoans s).isc = s.isc
      ∧ (resetLoans s).de = s.de
      ∧ (resetLoans s).cp = s.cp
      ∧ (resetLoans s).shu = s.shu
      ∧ (resetLoans s).lu.loans = s.lu.loans
      ∧ (resetLoans s).lu.day = s.lu.day
      ∧ (resetLoans s).mlc = s.mlc
      ∧ (resetLoans s).rti = s.rti
      ∧ (resetLoans s).pp = s.pp := by
  unfold resetLoans
  simp

@[simp] theorem resetLane_frame (s : State) :
    (resetLane s).clock = s.clock
      ∧ (resetLane s).raceCount = s.raceCount
      ∧ (resetLane s).pending = s.pending
      ∧ (resetLane s).cfl = s.cfl
      ∧ (resetLane s).fli = s.fli
      ∧ (resetLane s).au = s.au
      ∧ (resetLane s).wq = s.wq
      ∧ (resetLane s).isc = s.isc
      ∧ (resetLane s).de = s.de
      ∧ (resetLane s).cp = s.cp
      ∧ (resetLane s).shu = s.shu
      ∧ (resetLane s).lu = s.lu
      ∧ (resetLane s).rti = s.rti
      ∧ (resetLane s).pp = s.pp := by
  unfold resetLane
  simp

@[simp] theorem resetChute_frame (s : State) :
    (resetChute s).clock = s.clock
      ∧ (resetChute s).raceCount = s.raceCount
      ∧ (resetChute s).pending = s.pending
      ∧ (resetChute s).cfl = s.cfl
      ∧ (resetChute s).fli = s.fli
      ∧ (resetChute s).au = s.au
      ∧ (resetChute s).wq = s.wq
      ∧ (resetChute s).isc = s.isc
      ∧ (resetChute s).de = s.de
      ∧ (resetChute s).cp = s.cp
      ∧ (resetChute s).shu = s.shu
      ∧ (resetChute s).lu = s.lu
      ∧ (resetChute s).mlc = s.mlc
      ∧ (resetChute s).pp = s.pp := by
  unfold resetChute
  simp

@[simp] theorem keepTables_frame (s : State) :
    (keepTables s).clock = s.clock
      ∧ (keepTables s).raceCount = s.raceCount
      ∧ (keepTables s).pending = s.pending
      ∧ (keepTables s).cfl = s.cfl
      ∧ (keepTables s).fli = s.fli
      ∧ (keepTables s).au = s.au
      ∧ (keepTables s).isc.store = s.isc.store
      ∧ (keepTables s).isc.crcArea = s.isc.crcArea
      ∧ (keepTables s).lu.loans = s.lu.loans
      ∧ (keepTables s).lu.day = s.lu.day
      ∧ (keepTables s).pp.butEvents = s.pp.butEvents := by
  unfold keepTables
  simp

@[simp] theorem breakMarker_frame (s : State) :
    (breakMarker s).clock = s.clock
      ∧ (breakMarker s).raceCount = s.raceCount
      ∧ (breakMarker s).pending = s.pending
      ∧ (breakMarker s).cfl.loadSum = s.cfl.loadSum
      ∧ (breakMarker s).cfl.phase = s.cfl.phase
      ∧ (breakMarker s).cfl.settings = s.cfl.settings
      ∧ (breakMarker s).cfl.source = s.cfl.source
      ∧ (breakMarker s).cfl.station = s.cfl.station
      ∧ (breakMarker s).fli = s.fli
      ∧ (breakMarker s).au = s.au
      ∧ (breakMarker s).wq = s.wq
      ∧ (breakMarker s).isc = s.isc
      ∧ (breakMarker s).de = s.de
      ∧ (breakMarker s).cp = s.cp
      ∧ (breakMarker s).shu = s.shu
      ∧ (breakMarker s).lu = s.lu
      ∧ (breakMarker s).mlc = s.mlc
      ∧ (breakMarker s).rti = s.rti
      ∧ (breakMarker s).pp = s.pp := by
  unfold breakMarker
  simp

@[simp] theorem writeMarker_frame (s : State) :
    (writeMarker s).clock = s.clock
      ∧ (writeMarker s).raceCount = s.raceCount
      ∧ (writeMarker s).pending = s.pending
      ∧ (writeMarker s).cfl.loadSum = s.cfl.loadSum
      ∧ (writeMarker s).cfl.phase = s.cfl.phase
      ∧ (writeMarker s).cfl.settings = s.cfl.settings
      ∧ (writeMarker s).cfl.source = s.cfl.source
      ∧ (writeMarker s).cfl.station = s.cfl.station
      ∧ (writeMarker s).fli = s.fli
      ∧ (writeMarker s).au = s.au
      ∧ (writeMarker s).wq = s.wq
      ∧ (writeMarker s).isc = s.isc
      ∧ (writeMarker s).de = s.de
      ∧ (writeMarker s).cp = s.cp
      ∧ (writeMarker s).shu = s.shu
      ∧ (writeMarker s).lu = s.lu
      ∧ (writeMarker s).mlc = s.mlc
      ∧ (writeMarker s).rti = s.rti
      ∧ (writeMarker s).pp = s.pp := by
  unfold writeMarker
  simp

@[simp] theorem recordPhase_frame (warm : Bool) (s : State) :
    (recordPhase warm s).clock = s.clock
      ∧ (recordPhase warm s).raceCount = s.raceCount
      ∧ (recordPhase warm s).pending = s.pending
      ∧ (recordPhase warm s).fli = s.fli
      ∧ (recordPhase warm s).au = s.au
      ∧ (recordPhase warm s).isc.store = s.isc.store
      ∧ (recordPhase warm s).isc.crcArea = s.isc.crcArea
      ∧ (recordPhase warm s).pp.butEvents = s.pp.butEvents := by
  unfold recordPhase
  simp

@[simp] theorem startRack_frame (inp : ResetInputs) (s : State) :
    (startRack inp s).clock = s.clock
      ∧ (startRack inp s).raceCount = s.raceCount
      ∧ (startRack inp s).pending = s.pending
      ∧ (startRack inp s).cfl = s.cfl
      ∧ (startRack inp s).fli = s.fli
      ∧ (startRack inp s).au = s.au
      ∧ (startRack inp s).wq = s.wq
      ∧ (startRack inp s).isc = s.isc
      ∧ (startRack inp s).cp = s.cp
      ∧ (startRack inp s).shu = s.shu
      ∧ (startRack inp s).lu = s.lu
      ∧ (startRack inp s).mlc = s.mlc
      ∧ (startRack inp s).rti = s.rti
      ∧ (startRack inp s).pp = s.pp := by
  unfold startRack
  simp

@[simp] theorem repeatPicks_frame (index : ℕ) (s : State) (b : Bundle) :
    (repeatPicks index s b).clock = s.clock
      ∧ (repeatPicks index s b).raceCount = s.raceCount
      ∧ (repeatPicks index s b).pending = s.pending
      ∧ (repeatPicks index s b).cfl = s.cfl
      ∧ (repeatPicks index s b).fli = s.fli
      ∧ (repeatPicks index s b).au = s.au
      ∧ (repeatPicks index s b).wq = s.wq
      ∧ (repeatPicks index s b).isc = s.isc
      ∧ (repeatPicks index s b).de = s.de
      ∧ (repeatPicks index s b).cp = s.cp
      ∧ (repeatPicks index s b).shu = s.shu
      ∧ (repeatPicks index s b).lu = s.lu
      ∧ (repeatPicks index s b).mlc = s.mlc
      ∧ (repeatPicks index s b).rti = s.rti
      ∧ (repeatPicks index s b).pp.butEvents = s.pp.butEvents := by
  unfold repeatPicks
  simp

@[simp] theorem startLane_frame (inp : ResetInputs) (s : State) :
    (startLane inp s).clock = s.clock
      ∧ (startLane inp s).raceCount = s.raceCount
      ∧ (startLane inp s).pending = s.pending
      ∧ (startLane inp s).cfl = s.cfl
      ∧ (startLane inp s).fli = s.fli
      ∧ (startLane inp s).au = s.au
      ∧ (startLane inp s).wq = s.wq
      ∧ (startLane inp s).isc = s.isc
      ∧ (startLane inp s).de = s.de
      ∧ (startLane inp s).cp = s.cp
      ∧ (startLane inp s).shu = s.shu
      ∧ (startLane inp s).lu = s.lu
      ∧ (startLane inp s).rti = s.rti
      ∧ (startLane inp s).pp.butEvents = s.pp.butEvents := by
  unfold startLane
  dsimp only
  repeat' split
  all_goals simp

@[simp] theorem startChute_frame (inp : ResetInputs) (s : State) :
    (startChute inp s).clock = s.clock
      ∧ (startChute inp s).raceCount = s.raceCount
      ∧ (startChute inp s).pending = s.pending
      ∧ (startChute inp s).cfl = s.cfl
      ∧ (startChute inp s).fli = s.fli
      ∧ (startChute inp s).au = s.au
      ∧ (startChute inp s).wq = s.wq
      ∧ (startChute inp s).isc = s.isc
      ∧ (startChute inp s).de = s.de
      ∧ (startChute inp s).cp = s.cp
      ∧ (startChute inp s).shu = s.shu
      ∧ (startChute inp s).lu = s.lu
      ∧ (startChute inp s).mlc = s.mlc
      ∧ (startChute inp s).pp = s.pp := by
  unfold startChute
  simp

@[simp] theorem bringHome_frame (title : Title) (perCopy : Nat) (s : State) :
    (bringHome title perCopy s).1.clock = s.clock
      ∧ (bringHome title perCopy s).1.raceCount = s.raceCount
      ∧ (bringHome title perCopy s).1.pending = s.pending
      ∧ (bringHome title perCopy s).1.cfl = s.cfl
      ∧ (bringHome title perCopy s).1.fli = s.fli
      ∧ (bringHome title perCopy s).1.au = s.au
      ∧ (bringHome title perCopy s).1.wq = s.wq
      ∧ (bringHome title perCopy s).1.isc = s.isc
      ∧ (bringHome title perCopy s).1.de = s.de
      ∧ (bringHome title perCopy s).1.cp = s.cp
      ∧ (bringHome title perCopy s).1.lu = s.lu
      ∧ (bringHome title perCopy s).1.mlc = s.mlc
      ∧ (bringHome title perCopy s).1.rti = s.rti
      ∧ (bringHome title perCopy s).1.pp.butEvents = s.pp.butEvents
      ∧ (bringHome title perCopy s).1.shu.holds = s.shu.holds := by
  unfold bringHome
  split
  · rename_i h
    simp [copyHome_frame h]
  · simp

@[simp] theorem ownReturn_frame (c : Card) (s : State) :
    (ownReturn c s).1.clock = s.clock
      ∧ (ownReturn c s).1.raceCount = s.raceCount
      ∧ (ownReturn c s).1.pending = s.pending
      ∧ (ownReturn c s).1.cfl = s.cfl
      ∧ (ownReturn c s).1.fli = s.fli
      ∧ (ownReturn c s).1.au = s.au
      ∧ (ownReturn c s).1.wq.records = s.wq.records
      ∧ (ownReturn c s).1.isc = s.isc
      ∧ (ownReturn c s).1.de = s.de
      ∧ (ownReturn c s).1.lu.day = s.lu.day
      ∧ (ownReturn c s).1.mlc = s.mlc
      ∧ (ownReturn c s).1.rti = s.rti
      ∧ (ownReturn c s).1.pp.butEvents = s.pp.butEvents
      ∧ (ownReturn c s).1.shu.holds = s.shu.holds := by
  unfold ownReturn
  split
  · rename_i h
    have k := congrArg Prod.fst h
    dsimp only at k
    subst k
    simp
  · rename_i h
    have k := congrArg Prod.fst h
    dsimp only at k
    subst k
    simp
  · rename_i h
    have k := congrArg Prod.fst h
    dsimp only at k
    subst k
    split
    · simp
    · split <;> simp

theorem returnKeyed_frame {t : LoanTag} {s s' : State} (h : returnKeyed t s = some s') :
    s'.clock = s.clock
      ∧ s'.raceCount = s.raceCount
      ∧ s'.pending = s.pending
      ∧ s'.cfl = s.cfl
      ∧ s'.fli = s.fli
      ∧ s'.au = s.au
      ∧ s'.wq.records = s.wq.records
      ∧ s'.isc = s.isc
      ∧ s'.de = s.de
      ∧ s'.lu.day = s.lu.day
      ∧ s'.mlc = s.mlc
      ∧ s'.rti = s.rti
      ∧ s'.pp.butEvents = s.pp.butEvents
      ∧ s'.shu.holds = s.shu.holds := by
  unfold returnKeyed at h
  split at h
  · cases h
  · split at h
    · rename_i e
      have k := congrArg Prod.fst e
      dsimp only at k
      subst k
      split at h
      · cases h
        simp
      · cases h
        split <;> simp
    · cases h
    · cases h

@[simp] theorem takeCard_frame (c : Card) (s : State) :
    (takeCard c s).clock = s.clock
      ∧ (takeCard c s).raceCount = s.raceCount
      ∧ (takeCard c s).pending = s.pending
      ∧ (takeCard c s).cfl = s.cfl
      ∧ (takeCard c s).fli.butQueue = s.fli.butQueue
      ∧ (takeCard c s).au = s.au
      ∧ (takeCard c s).wq.records = s.wq.records
      ∧ (takeCard c s).isc = s.isc
      ∧ (takeCard c s).de = s.de
      ∧ (takeCard c s).lu.day = s.lu.day
      ∧ (takeCard c s).mlc = s.mlc
      ∧ (takeCard c s).pp.butEvents = s.pp.butEvents
      ∧ (takeCard c s).shu.holds = s.shu.holds := by
  unfold takeCard
  dsimp only
  split <;> simp

@[simp] theorem readFace_frame (f : List Byte) (s : State) :
    (readFace f s).clock = s.clock
      ∧ (readFace f s).raceCount = s.raceCount
      ∧ (readFace f s).pending = s.pending
      ∧ (readFace f s).cfl = s.cfl
      ∧ (readFace f s).fli.butQueue = s.fli.butQueue
      ∧ (readFace f s).au = s.au
      ∧ (readFace f s).wq.records = s.wq.records
      ∧ (readFace f s).isc = s.isc
      ∧ (readFace f s).de = s.de
      ∧ (readFace f s).lu.day = s.lu.day
      ∧ (readFace f s).mlc = s.mlc
      ∧ (readFace f s).pp.butEvents = s.pp.butEvents
      ∧ (readFace f s).shu.holds = s.shu.holds := by
  unfold readFace
  try dsimp only
  (repeat' split) <;> simp

@[simp] theorem cardImageComplete_frame (f : List Bool) (s : State) :
    (cardImageComplete f s).clock = s.clock
      ∧ (cardImageComplete f s).raceCount = s.raceCount
      ∧ (cardImageComplete f s).pending = s.pending
      ∧ (cardImageComplete f s).cfl = s.cfl
      ∧ (cardImageComplete f s).fli.butQueue = s.fli.butQueue
      ∧ (cardImageComplete f s).au = s.au
      ∧ (cardImageComplete f s).wq.records = s.wq.records
      ∧ (cardImageComplete f s).isc = s.isc
      ∧ (cardImageComplete f s).de = s.de
      ∧ (cardImageComplete f s).lu.day = s.lu.day
      ∧ (cardImageComplete f s).mlc = s.mlc
      ∧ (cardImageComplete f s).pp.butEvents = s.pp.butEvents
      ∧ (cardImageComplete f s).shu.holds = s.shu.holds := by
  unfold cardImageComplete
  try dsimp only
  (repeat' split) <;> simp

theorem foldl_pool {α : Type} (f : State → α → State) (h : ∀ s x, ∃ cp, f s x = { s with cp := cp }) (l : List α) :
    ∀ s, ∃ cp, l.foldl f s = { s with cp := cp } := by
  induction l with
  | nil => intro s; exact ⟨s.cp, rfl⟩
  | cons a l ih =>
    intro s
    obtain ⟨c, hc⟩ := h s a
    obtain ⟨d, hd⟩ := ih (f s a)
    exact ⟨d, by rw [List.foldl_cons, hd, hc]⟩

theorem enterState_cp (serial : CartSerial) (st : CartState) (s : State) :
    ∃ cp, enterState serial st s = { s with cp := cp } := by
  unfold enterState changeCart
  repeat' split
  all_goals first | exact ⟨_, rfl⟩ | exact ⟨s.cp, rfl⟩

@[simp] theorem completeStart_frame (s : State) :
    (completeStart s).clock = s.clock
      ∧ (completeStart s).raceCount = s.raceCount
      ∧ (completeStart s).pending = s.pending
      ∧ (completeStart s).cfl.settings = s.cfl.settings
      ∧ (completeStart s).cfl.station = s.cfl.station
      ∧ (completeStart s).cfl.marker = s.cfl.marker
      ∧ (completeStart s).cfl.source = s.cfl.source
      ∧ (completeStart s).cfl.loadSum = s.cfl.loadSum
      ∧ (completeStart s).fli.queue = s.fli.queue
      ∧ (completeStart s).fli.lineOut = s.fli.lineOut
      ∧ (completeStart s).fli.sending = s.fli.sending
      ∧ (completeStart s).fli.txState = s.fli.txState
      ∧ (completeStart s).fli.collisions = s.fli.collisions
      ∧ (completeStart s).au = s.au
      ∧ (completeStart s).wq = s.wq
      ∧ (completeStart s).isc = s.isc
      ∧ (completeStart s).shu = s.shu
      ∧ (completeStart s).lu = s.lu
      ∧ (completeStart s).mlc = s.mlc
      ∧ (completeStart s).rti = s.rti
      ∧ (completeStart s).pp = s.pp := by
  unfold completeStart
  dsimp only
  generalize hF : List.foldl _ s (List.map _ s.cp.records) = x
  obtain ⟨c, rfl⟩ : ∃ c, x = { s with cp := c } := by
    rw [← hF]
    apply foldl_pool
    intro s r
    split
    · exact enterState_cp _ _ _
    · exact enterState_cp _ _ _
    · exact ⟨s.cp, rfl⟩
  split <;> simp

@[simp] theorem socketIdentified_frame (k : SocketNo) (s : State) :
    (socketIdentified k s).clock = s.clock
      ∧ (socketIdentified k s).raceCount = s.raceCount
      ∧ (socketIdentified k s).pending = s.pending
      ∧ (socketIdentified k s).cfl.settings = s.cfl.settings
      ∧ (socketIdentified k s).cfl.station = s.cfl.station
      ∧ (socketIdentified k s).cfl.marker = s.cfl.marker
      ∧ (socketIdentified k s).cfl.source = s.cfl.source
      ∧ (socketIdentified k s).cfl.loadSum = s.cfl.loadSum
      ∧ (socketIdentified k s).fli.queue = s.fli.queue
      ∧ (socketIdentified k s).fli.lineOut = s.fli.lineOut
      ∧ (socketIdentified k s).fli.sending = s.fli.sending
      ∧ (socketIdentified k s).fli.txState = s.fli.txState
      ∧ (socketIdentified k s).fli.collisions = s.fli.collisions
      ∧ (socketIdentified k s).au = s.au
      ∧ (socketIdentified k s).wq = s.wq
      ∧ (socketIdentified k s).isc = s.isc
      ∧ (socketIdentified k s).shu = s.shu
      ∧ (socketIdentified k s).lu = s.lu
      ∧ (socketIdentified k s).mlc = s.mlc
      ∧ (socketIdentified k s).rti = s.rti
      ∧ (socketIdentified k s).pp = s.pp := by
  unfold socketIdentified
  try dsimp only
  (repeat' split) <;> simp

@[simp] theorem headerRead_frame (a : List Byte) (s : State) :
    (headerRead a s).clock = s.clock
      ∧ (headerRead a s).raceCount = s.raceCount
      ∧ (headerRead a s).pending = s.pending
      ∧ (headerRead a s).cfl.settings = s.cfl.settings
      ∧ (headerRead a s).cfl.station = s.cfl.station
      ∧ (headerRead a s).cfl.marker = s.cfl.marker
      ∧ (headerRead a s).cfl.source = s.cfl.source
      ∧ (headerRead a s).cfl.loadSum = s.cfl.loadSum
      ∧ (headerRead a s).fli.queue = s.fli.queue
      ∧ (headerRead a s).fli.lineOut = s.fli.lineOut
      ∧ (headerRead a s).fli.sending = s.fli.sending
      ∧ (headerRead a s).fli.txState = s.fli.txState
      ∧ (headerRead a s).fli.collisions = s.fli.collisions
      ∧ (headerRead a s).au = s.au
      ∧ (headerRead a s).wq = s.wq
      ∧ (headerRead a s).isc = s.isc
      ∧ (headerRead a s).shu = s.shu
      ∧ (headerRead a s).lu = s.lu
      ∧ (headerRead a s).mlc = s.mlc
      ∧ (headerRead a s).rti = s.rti
      ∧ (headerRead a s).pp.butEvents = s.pp.butEvents := by
  unfold headerRead
  try dsimp only
  (repeat' split) <;> simp

@[simp] theorem grantFails_frame (s : State) :
    (grantFails s).clock = s.clock
      ∧ (grantFails s).raceCount = s.raceCount
      ∧ (grantFails s).pending = s.pending
      ∧ (grantFails s).cfl.settings = s.cfl.settings
      ∧ (grantFails s).cfl.station = s.cfl.station
      ∧ (grantFails s).cfl.marker = s.cfl.marker
      ∧ (grantFails s).cfl.source = s.cfl.source
      ∧ (grantFails s).cfl.loadSum = s.cfl.loadSum
      ∧ (grantFails s).fli.queue = s.fli.queue
      ∧ (grantFails s).fli.lineOut = s.fli.lineOut
      ∧ (grantFails s).fli.sending = s.fli.sending
      ∧ (grantFails s).fli.txState = s.fli.txState
      ∧ (grantFails s).fli.collisions = s.fli.collisions
      ∧ (grantFails s).au = s.au
      ∧ (grantFails s).isc = s.isc
      ∧ (grantFails s).shu = s.shu
      ∧ (grantFails s).lu = s.lu
      ∧ (grantFails s).mlc = s.mlc
      ∧ (grantFails s).rti = s.rti
      ∧ (grantFails s).pp.butEvents = s.pp.butEvents := by
  unfold grantFails
  try dsimp only
  (repeat' split) <;> simp

@[simp] theorem grantLate_frame (s : State) :
    (grantLate s).clock = s.clock
      ∧ (grantLate s).raceCount = s.raceCount
      ∧ (grantLate s).pending = s.pending
      ∧ (grantLate s).cfl.settings = s.cfl.settings
      ∧ (grantLate s).cfl.station = s.cfl.station
      ∧ (grantLate s).cfl.marker = s.cfl.marker
      ∧ (grantLate s).cfl.source = s.cfl.source
      ∧ (grantLate s).cfl.loadSum = s.cfl.loadSum
      ∧ (grantLate s).fli.queue = s.fli.queue
      ∧ (grantLate s).fli.lineOut = s.fli.lineOut
      ∧ (grantLate s).fli.sending = s.fli.sending
      ∧ (grantLate s).fli.txState = s.fli.txState
      ∧ (grantLate s).fli.collisions = s.fli.collisions
      ∧ (grantLate s).au = s.au
      ∧ (grantLate s).isc = s.isc
      ∧ (grantLate s).shu = s.shu
      ∧ (grantLate s).lu = s.lu
      ∧ (grantLate s).mlc = s.mlc
      ∧ (grantLate s).rti = s.rti
      ∧ (grantLate s).pp.butEvents = s.pp.butEvents := by
  unfold grantLate
  split <;> simp

@[simp] theorem cartReady_frame (k : SocketNo) (pass : Bool) (s : State) :
    (cartReady k pass s).clock = s.clock
      ∧ (cartReady k pass s).raceCount = s.raceCount
      ∧ (cartReady k pass s).pending = s.pending
      ∧ (cartReady k pass s).cfl.settings = s.cfl.settings
      ∧ (cartReady k pass s).cfl.station = s.cfl.station
      ∧ (cartReady k pass s).cfl.marker = s.cfl.marker
      ∧ (cartReady k pass s).cfl.source = s.cfl.source
      ∧ (cartReady k pass s).cfl.loadSum = s.cfl.loadSum
      ∧ (cartReady k pass s).fli.queue = s.fli.queue
      ∧ (cartReady k pass s).fli.lineOut = s.fli.lineOut
      ∧ (cartReady k pass s).fli.sending = s.fli.sending
      ∧ (cartReady k pass s).fli.txState = s.fli.txState
      ∧ (cartReady k pass s).fli.collisions = s.fli.collisions
      ∧ (cartReady k pass s).au = s.au
      ∧ (cartReady k pass s).isc = s.isc
      ∧ (cartReady k pass s).shu = s.shu
      ∧ (cartReady k pass s).lu = s.lu
      ∧ (cartReady k pass s).mlc = s.mlc
      ∧ (cartReady k pass s).rti = s.rti
      ∧ (cartReady k pass s).pp.butEvents = s.pp.butEvents := by
  unfold cartReady
  try dsimp only
  (repeat' split) <;> simp

/-- What a ready during a transfer can do: it ends the read limit of a grant of its socket, and nothing else. -/
theorem transferReady_granted {k : SocketNo} {s : State} {g : Grant} (h : s.de.grant = some g) :
    transferReady k s
      = { s with de := { s.de with grant := some (if g.socket = k then { g with limit := none } else g) } } := by
  simp [transferReady, h, Grant.readySeen]

theorem transferReady_elsewhere {k : SocketNo} {s : State} (h : ∀ g, s.de.grant = some g → g.socket ≠ k) :
    transferReady k s = s := by
  have same : s.de.grant.map (Grant.readySeen k) = s.de.grant := by
    cases hg : s.de.grant with
    | none => rfl
    | some g => simp [Grant.readySeen, h g hg]
  simp [transferReady, same]

@[simp] theorem transferReady_fields (k : SocketNo) (s : State) :
    { transferReady k s with de := s.de } = s ∧ (transferReady k s).de.sockets = s.de.sockets
      ∧ (transferReady k s).de.writeSlot = s.de.writeSlot ∧ (transferReady k s).de.readSlot = s.de.readSlot
      ∧ (transferReady k s).de.lastGranted = s.de.lastGranted
      ∧ (transferReady k s).de.unidentified = s.de.unidentified
      ∧ (transferReady k s).de.walkDue = s.de.walkDue := by
  simp [transferReady]

@[simp] theorem removeCart_frame (k : SocketNo) (s : State) :
    (removeCart k s).clock = s.clock
      ∧ (removeCart k s).raceCount = s.raceCount
      ∧ (removeCart k s).pending = s.pending
      ∧ (removeCart k s).cfl.settings = s.cfl.settings
      ∧ (removeCart k s).cfl.station = s.cfl.station
      ∧ (removeCart k s).cfl.marker = s.cfl.marker
      ∧ (removeCart k s).cfl.source = s.cfl.source
      ∧ (removeCart k s).cfl.loadSum = s.cfl.loadSum
      ∧ (removeCart k s).fli.queue = s.fli.queue
      ∧ (removeCart k s).fli.lineOut = s.fli.lineOut
      ∧ (removeCart k s).fli.sending = s.fli.sending
      ∧ (removeCart k s).fli.txState = s.fli.txState
      ∧ (removeCart k s).fli.collisions = s.fli.collisions
      ∧ (removeCart k s).au = s.au
      ∧ (removeCart k s).isc = s.isc
      ∧ (removeCart k s).shu = s.shu
      ∧ (removeCart k s).lu = s.lu
      ∧ (removeCart k s).mlc = s.mlc
      ∧ (removeCart k s).rti = s.rti
      ∧ (removeCart k s).pp = s.pp := by
  unfold removeCart
  dsimp only
  split
  · simp
  · split <;> simp

@[simp] theorem overdueScan_frame (s : State) :
    (overdueScan s).clock = s.clock
      ∧ (overdueScan s).raceCount = s.raceCount
      ∧ (overdueScan s).pending = s.pending
      ∧ (overdueScan s).cfl = s.cfl
      ∧ (overdueScan s).fli.butQueue = s.fli.butQueue
      ∧ (overdueScan s).au = s.au
      ∧ (overdueScan s).isc = s.isc
      ∧ (overdueScan s).de = s.de
      ∧ (overdueScan s).mlc = s.mlc
      ∧ (overdueScan s).rti = s.rti
      ∧ (overdueScan s).lu.day = s.lu.day
      ∧ (overdueScan s).pp.butEvents = s.pp.butEvents := by
  unfold overdueScan
  dsimp only
  refine ⟨?_, ?_, ?_, ?_, ?_, ?_, ?_, ?_, ?_, ?_, ?_, ?_⟩
  · simp [foldl_fst (fun s => s.clock) scanLoan (by simp)]
  · simp [foldl_fst (fun s => s.raceCount) scanLoan (by simp)]
  · simp [foldl_fst (fun s => s.pending) scanLoan (by simp)]
  · simp [foldl_fst (fun s => s.cfl) scanLoan (by simp)]
  · simp [foldl_fst (fun s => s.fli.butQueue) scanLoan (by simp)]
  · simp [foldl_fst (fun s => s.au) scanLoan (by simp)]
  · simp [foldl_fst (fun s => s.isc) scanLoan (by simp)]
  · simp [foldl_fst (fun s => s.de) scanLoan (by simp)]
  · simp [foldl_fst (fun s => s.mlc) scanLoan (by simp)]
  · simp [foldl_fst (fun s => s.rti) scanLoan (by simp)]
  · simp [foldl_fst (fun s => s.lu.day) scanLoan (by simp)]
  · simp [foldl_fst (fun s => s.pp.butEvents) scanLoan (by simp)]

@[simp] theorem hearDay_frame (f : Received) (s : State) :
    (hearDay f s).clock = s.clock
      ∧ (hearDay f s).raceCount = s.raceCount
      ∧ (hearDay f s).pending = s.pending
      ∧ (hearDay f s).cfl = s.cfl
      ∧ (hearDay f s).fli.butQueue = s.fli.butQueue
      ∧ (hearDay f s).au = s.au
      ∧ (hearDay f s).isc = s.isc
      ∧ (hearDay f s).de = s.de
      ∧ (hearDay f s).mlc = s.mlc
      ∧ (hearDay f s).rti = s.rti
      ∧ (hearDay f s).pp.butEvents = s.pp.butEvents := by
  unfold hearDay
  try dsimp only
  (repeat' split) <;> simp

theorem Fli.turns_eq {a b : Fli} (h : a.butQueue = b.butQueue) : a.turns = b.turns :=
  congrArg (fun f => { f with withdrawHead := false }) h

@[simp] theorem Fli.turns_set (f : Fli) (q : List Frame) (w : Bool) :
    Fli.turns { f with queue := q, withdrawHead := w } = f.turns := rfl

@[simp] theorem Fli.turns_queue (f : Fli) (q : List Frame) :
    Fli.turns { f with queue := q } = f.turns := rfl

@[simp] theorem withdrawQueued_turns (o : OrderSerial) (s : State) :
    (withdrawQueued o s).fli.turns = s.fli.turns := by
  unfold withdrawQueued
  split
  · exact (Fli.turns_eq (entriesFreed_frame _ _).2.2.2.1).trans rfl
  · exact (Fli.turns_eq (entriesFreed_frame _ _).2.2.2.1).trans rfl

@[simp] theorem withdrawBid_turns (o : OrderSerial) (s : State) : (withdrawBid o s).fli.turns = s.fli.turns := by
  unfold withdrawBid
  simp

@[simp] theorem dropAuction_turns (o : OrderSerial) (s : State) : (dropAuction o s).fli.turns = s.fli.turns := by
  unfold dropAuction
  split <;> simp

@[simp] theorem cancelOrder_turns (o : OrderSerial) (s : State) : (cancelOrder o s).fli.turns = s.fli.turns :=
  Fli.turns_eq (by simp)

@[simp] theorem abandonOrder_turns (o : OrderSerial) (s : State) : (abandonOrder o s).fli.turns = s.fli.turns :=
  Fli.turns_eq (by simp)

@[simp] theorem compareTake_turns (f : Received) (s : State) : (compareTake f s).fli.turns = s.fli.turns :=
  Fli.turns_eq (by simp)

@[simp] theorem acceptTake_turns (e : AuctionEntry) (s : State) : (acceptTake e s).fli.turns = s.fli.turns :=
  Fli.turns_eq (by simp)

@[simp] theorem offerFrame_turns (b : Producer) (f : Frame) (s : State) : (offerFrame b f s).fli.turns = s.fli.turns :=
  Fli.turns_eq (by simp)

@[simp] theorem holdTakenElsewhere_turns (o : OrderSerial) (i : Nat) (s : State) :
    (holdTakenElsewhere o i s).fli.turns = s.fli.turns := Fli.turns_eq (by simp)

@[simp] theorem fullStage_turns (s : State) : (fullStage s).fli.turns = s.fli.turns := Fli.turns_eq (by simp)

@[simp] theorem hearCancel_turns (f : Received) (s : State) : (hearCancel f s).fli.turns = s.fli.turns := by
  simp [hearCancel]

@[simp] theorem hearTake_turns (f : Received) (s : State) : (hearTake f s).fli.turns = s.fli.turns := by
  unfold hearTake
  repeat' split
  all_goals simp

@[simp] theorem closeOrder_turns (o : OrderSerial) (x : Outcome) (s : State) :
    (closeOrder o x s).fli.turns = s.fli.turns := by
  unfold closeOrder
  dsimp only
  repeat' split
  all_goals simp

@[simp] theorem hearClosed_turns (f : Received) (s : State) : (hearClosed f s).fli.turns = s.fli.turns := by
  unfold hearClosed
  repeat' split
  all_goals simp

@[simp] theorem deliver_turns (k : Kind) (f : Received) (s : State) : (deliver k f s).fli.turns = s.fli.turns := by
  cases k <;> simp only [deliver, hearCancel_turns, hearTake_turns, hearClosed_turns] <;> exact Fli.turns_eq (by simp)

@[simp] theorem takeOrder_turns (e : AuctionEntry) (s : State) : (takeOrder e s).fli.turns = s.fli.turns := by
  unfold takeOrder
  dsimp only
  split <;> simp [freeAuction]

@[simp] theorem closeWindow_turns (e : AuctionEntry) (s : State) : (closeWindow e s).fli.turns = s.fli.turns := by
  unfold closeWindow
  dsimp only
  split <;> simp

@[simp] theorem windowReached_turns (o : OrderSerial) (s : State) : (windowReached o s).fli.turns = s.fli.turns := by
  unfold windowReached
  repeat' split
  all_goals simp

@[simp] theorem takeReached_turns (o : OrderSerial) (s : State) : (takeReached o s).fli.turns = s.fli.turns := by
  unfold takeReached
  repeat' split
  all_goals simp

@[simp] theorem deliver_frame (k : Kind) (f : Received) (s : State) :
    (deliver k f s).clock = s.clock
      ∧ (deliver k f s).pending = s.pending
      ∧ (deliver k f s).cfl = s.cfl
      ∧ (deliver k f s).mlc = s.mlc
      ∧ (deliver k f s).pp.butEvents = s.pp.butEvents := by
  cases k <;> simp [deliver]

theorem actReturnKeyed_frame {w : TakenCommand} {s s' : State} (h : actReturnKeyed w s = some s') :
    s'.clock = s.clock
      ∧ s'.raceCount = s.raceCount
      ∧ s'.pending = s.pending
      ∧ s'.cfl = s.cfl
      ∧ s'.fli.butQueue = s.fli.butQueue
      ∧ s'.au = s.au
      ∧ s'.isc = s.isc
      ∧ s'.lu.day = s.lu.day
      ∧ s'.rti = s.rti
      ∧ s'.pp.butEvents = s.pp.butEvents := by
  unfold actReturnKeyed at h
  simp only [Option.map_eq_some_iff] at h
  obtain ⟨a, h, rfl⟩ := h
  simp [returnKeyed_frame h]

theorem actContainerWithdraw_frame {w : TakenCommand} {s s' : State} (h : actContainerWithdraw w s = some s') :
    s'.clock = s.clock
      ∧ s'.raceCount = s.raceCount
      ∧ s'.pending = s.pending
      ∧ s'.cfl = s.cfl
      ∧ s'.fli = s.fli
      ∧ s'.au = s.au
      ∧ s'.isc = s.isc
      ∧ s'.lu.day = s.lu.day
      ∧ s'.rti = s.rti
      ∧ s'.pp.butEvents = s.pp.butEvents := by
  unfold actContainerWithdraw at h
  simp only [Option.map_eq_some_iff] at h
  obtain ⟨a, h, rfl⟩ := h
  simp [withdrawContainer_frame h]

/-- The command slot is no part of the event queue. -/
theorem Pp.slot_of_butEvents {p q : Pp} (h : p.butEvents = q.butEvents) : p.slot = q.slot :=
  show p.butEvents.slot = q.butEvents.slot by rw [h]

/-- Whatever a taken command does, it leaves alone the clock, the waiting commands, the settings, the auctions, the
chute, the calendar, the image store's contents and the command slot (R191). -/
theorem commandAct_frame {w : TakenCommand} {s s' : State} (h : commandAct w s = some s') :
    s'.clock = s.clock
      ∧ s'.pending = s.pending
      ∧ s'.cfl = s.cfl
      ∧ s'.fli.butQueue = s.fli.butQueue
      ∧ s'.au = s.au
      ∧ s'.isc = s.isc
      ∧ s'.lu.day = s.lu.day
      ∧ s'.rti = s.rti
      ∧ s'.pp.slot = s.pp.slot := by
  unfold commandAct at h
  split at h
  · simp only [actPause, Option.some.injEq] at h
    subst h
    simp
  · simp only [actResume, Option.some.injEq] at h
    subst h
    simp
  · have f := actPickDone_frame h
    simp [f, Pp.slot_of_butEvents f.2.2.2.2.2.2.2.2.2.2.2.2]
  · have f := actShelfAdd_frame h
    simp [f, Pp.slot_of_butEvents f.2.2.2.2.2.2.2.2.2.2.2.2.2]
  · simp [actShelfWithdraw_frame h]
  · have f := actSackChanged_frame h
    simp [f, Pp.slot_of_butEvents f.2.2.2.2.2.2.2.2.2.2.2.2.2]
  · simp [actSackClose_frame h]
  · simp [cardRewrite_frame h]
  · have f := actContainerWithdraw_frame h
    simp [f, Pp.slot_of_butEvents f.2.2.2.2.2.2.2.2.2]
  · have f := actReturnKeyed_frame h
    simp [f, Pp.slot_of_butEvents f.2.2.2.2.2.2.2.2.2]
  · cases h

end Sys2Proof.Machine
end

