-- ==== Sys2Proof/Laws/Memory.lean ====
section
/-! SUPPORT. What the operations over the image store memory and over tables can do: the canonical form is
kept, a read after a write gives the value written, and a write leaves every other place alone. -/

namespace Sys2Proof.Machine

/-! ## The image store memory -/

/-- Every address listed is at least `lo`, rising, and nothing listed reads as an unlisted byte does. -/
def Memory.from? (lo : Nat) (m : Memory) : Prop :=
  (m.map (·.1)).Pairwise (· < ·) ∧ (∀ c ∈ m, lo ≤ c.1) ∧ ∀ c ∈ m, c.2 ≠ Memory.unlisted

theorem Memory.wf_iff (m : Memory) : m.wf = true ↔ Memory.from? 0 m := by
  simp [Memory.wf, Memory.from?]

theorem Memory.from?_tail {lo : Nat} {c : Host.Cell} {m : Memory} (h : Memory.from? lo (c :: m)) :
    lo ≤ c.1 ∧ c.2 ≠ Memory.unlisted ∧ Memory.from? (c.1 + 1) m := by
  obtain ⟨h1, h2, h3⟩ := h
  simp only [List.map_cons, List.pairwise_cons, List.mem_map, forall_exists_index, and_imp,
    forall_apply_eq_imp_iff₂] at h1
  exact ⟨h2 c (by simp), h3 c (by simp), h1.2, fun x hx => h1.1 x hx, fun x hx => h3 x (by simp [hx])⟩

theorem Memory.from?_cons {lo : Nat} {c : Host.Cell} {m : Memory} (h1 : lo ≤ c.1) (h2 : c.2 ≠ Memory.unlisted)
    (h3 : Memory.from? (c.1 + 1) m) : Memory.from? lo (c :: m) := by
  obtain ⟨p, q, r⟩ := h3
  refine ⟨?_, ?_, ?_⟩
  · simp only [List.map_cons, List.pairwise_cons, List.mem_map, forall_exists_index, and_imp,
      forall_apply_eq_imp_iff₂]
    exact ⟨fun x hx => q x hx, p⟩
  · intro x hx
    rcases List.mem_cons.1 hx with rfl | hx
    · exact h1
    · exact le_trans h1 (Nat.le_of_succ_le (q x hx))
  · intro x hx
    rcases List.mem_cons.1 hx with rfl | hx
    · exact h2
    · exact r x hx

theorem Memory.from?_mono {lo lo' : Nat} {m : Memory} (h : lo' ≤ lo) (hm : Memory.from? lo m) : Memory.from? lo' m :=
  ⟨hm.1, fun c hc => le_trans h (hm.2.1 c hc), hm.2.2⟩

theorem Memory.write_from? (a : Nat) (v : Byte) : ∀ (m : Memory) (lo : Nat), lo ≤ a → Memory.from? lo m →
    Memory.from? lo (Memory.write a v m)
  | [], lo, h, _ => by
    unfold Memory.write
    split
    · exact ⟨by simp, by simp, by simp⟩
    · exact ⟨by simp, by simpa using h, by simpa⟩
  | (b, w) :: rest, lo, h, hm => by
    obtain ⟨h1, h2, h3⟩ := Memory.from?_tail hm
    unfold Memory.write
    split
    · rename_i hab
      split
      · exact hm
      · rename_i hv
        exact Memory.from?_cons h hv (Memory.from?_cons hab h2 h3)
    · split
      · rename_i hab
        subst hab
        split
        · exact Memory.from?_mono (by simp at h1; omega) h3
        · rename_i hv
          exact Memory.from?_cons h hv h3
      · exact Memory.from?_cons h1 h2 (Memory.write_from? a v rest _ (by simp; omega) h3)

/-- A write keeps the canonical form. -/
theorem Memory.write_wf {m : Memory} (a : Nat) (v : Byte) (h : m.wf = true) : Memory.wf (Memory.write a v m) = true :=
  (Memory.wf_iff _).2 (Memory.write_from? a v m 0 (Nat.zero_le _) ((Memory.wf_iff m).1 h))

/-- Writing many bytes keeps the canonical form. -/
theorem Memory.writeAll_wf (vs : List Byte) : ∀ (a : Nat) (m : Memory), m.wf = true →
    Memory.wf (Memory.writeAll a vs m) = true := by
  induction vs with
  | nil => intro a m h; exact h
  | cons v vs ih => intro a m h; exact ih _ _ (Memory.write_wf a v h)

theorem Memory.read_cons (b : Nat) (w : Byte) (m : Memory) (x : Nat) :
    Memory.read ((b, w) :: m) x = if b = x then w else Memory.read m x := by
  by_cases h : b = x <;> simp [Memory.read, h]

theorem Memory.read_below {lo : Nat} {m : Memory} (h : Memory.from? lo m) {x : Nat} (hx : x < lo) :
    Memory.read m x = Memory.unlisted := by
  have : m.find? (fun c => c.1 == x) = none := by
    rw [List.find?_eq_none]
    intro c hc
    have := h.2.1 c hc
    simp
    omega
  simp [Memory.read, this]

theorem Memory.read_write_from? (a : Nat) (v : Byte) (x : Nat) : ∀ (m : Memory) (lo : Nat), Memory.from? lo m →
    Memory.read (Memory.write a v m) x = if x = a then v else Memory.read m x
  | [], lo, _ => by
    unfold Memory.write
    by_cases hx : x = a
    · subst hx
      split <;> simp_all [Memory.read]
    · split <;> simp [Memory.read, Ne.symm hx]
  | (b, w) :: rest, lo, hm => by
    obtain ⟨h1, h2, h3⟩ := Memory.from?_tail hm
    unfold Memory.write
    split
    · rename_i hab
      have hb : Memory.read ((b, w) :: rest) a = Memory.unlisted :=
        Memory.read_below (lo := b) (Memory.from?_cons (le_refl _) h2 h3) hab
      split
      · rename_i hv
        by_cases hx : x = a
        · simp only [hx, if_true, hb, hv]
        · simp [hx]
      · rw [Memory.read_cons]
        by_cases hx : x = a
        · simp [hx]
        · simp [hx, Ne.symm hx]
    · split
      · rename_i hab
        subst hab
        have hb : Memory.read rest a = Memory.unlisted := Memory.read_below h3 (Nat.lt_succ_self _)
        split
        · rename_i hv
          by_cases hx : x = a
          · simp [hx, hb, hv]
          · simp [hx, Memory.read_cons, Ne.symm hx]
        · by_cases hx : x = a
          · simp [hx, Memory.read_cons]
          · simp [hx, Memory.read_cons, Ne.symm hx]
      · rw [Memory.read_cons, Memory.read_write_from? a v x rest _ h3, Memory.read_cons]
        by_cases hx : x = a
        · have : b ≠ x := by omega
          simp [hx, show b ≠ a by omega]
        · simp [hx]

/-- A read after a write: the value written at its address, and the former value everywhere else. -/
theorem Memory.read_write {m : Memory} (h : m.wf = true) (a : Nat) (v : Byte) (x : Nat) :
    Memory.read (Memory.write a v m) x = if x = a then v else Memory.read m x :=
  Memory.read_write_from? a v x m 0 ((Memory.wf_iff m).1 h)

/-- A read after the writing of many bytes. -/
theorem Memory.read_writeAll (vs : List Byte) : ∀ (a : Nat) (m : Memory), m.wf = true → ∀ x,
    Memory.read (Memory.writeAll a vs m) x
      = if a ≤ x ∧ x < a + vs.length then vs.getD (x - a) 0 else Memory.read m x := by
  induction vs with
  | nil =>
    intro a m _ x
    simp only [Memory.writeAll, List.length_nil]
    rw [if_neg (by omega)]
  | cons v vs ih =>
    intro a m h x
    rw [Memory.writeAll, ih _ _ (Memory.write_wf a v h), Memory.read_write h]
    by_cases hx : x = a
    · subst hx
      simp
    · by_cases hr : a ≤ x ∧ x < a + (v :: vs).length
      · simp only [List.length_cons] at hr
        rw [if_pos (by omega), if_pos (by simpa using hr)]
        obtain ⟨n, rfl⟩ : ∃ n, x = a + 1 + n := ⟨x - (a + 1), by omega⟩
        rw [show a + 1 + n - (a + 1) = n by omega, show a + 1 + n - a = n + 1 by omega]
        simp
      · rw [if_neg hr, if_neg hx, if_neg]
        simp only [List.length_cons] at hr
        omega

/-! ## Tables -/

theorem Table.wf_iff {α : Type} (cap : Nat) (t : Table α) :
    Table.wf cap t = true ↔ (t.map (·.1)).Pairwise (· < ·) ∧ ∀ e ∈ t, e.1 < cap := by
  simp [Table.wf]

theorem Table.mem_put {α : Type} (k : Nat) (v : α) : ∀ (t : Table α) (e : Nat × α), e ∈ Table.put k v t →
    e = (k, v) ∨ e ∈ t
  | [], e, h => by simpa [Table.put] using h
  | (j, w) :: rest, e, h => by
    unfold Table.put at h
    split at h
    · simpa using h
    · split at h
      · rcases List.mem_cons.1 h with h | h
        · exact .inl h
        · exact .inr (by simp [h])
      · rcases List.mem_cons.1 h with h | h
        · exact .inr (by simp [h])
        · rcases Table.mem_put k v rest e h with h | h
          · exact .inl h
          · exact .inr (by simp [h])

theorem Table.put_pairwise {α : Type} (k : Nat) (v : α) : ∀ (t : Table α), (t.map (·.1)).Pairwise (· < ·) →
    ((Table.put k v t).map (·.1)).Pairwise (· < ·)
  | [], _ => by simp [Table.put]
  | (j, w) :: rest, h => by
    have h' := h
    simp only [List.map_cons, List.pairwise_cons] at h
    unfold Table.put
    split
    · rename_i hk
      simp only [List.map_cons, List.pairwise_cons, List.mem_cons, forall_eq_or_imp]
      exact ⟨⟨hk, fun x hx => lt_trans hk (h.1 x hx)⟩, h.1, h.2⟩
    · split
      · rename_i hk
        subst hk
        simpa using h
      · simp only [List.map_cons, List.pairwise_cons]
        refine ⟨?_, Table.put_pairwise k v rest h.2⟩
        intro x hx
        obtain ⟨e, he, rfl⟩ := List.mem_map.1 hx
        rcases Table.mem_put k v rest e he with rfl | he
        · simp
          omega
        · exact h.1 _ (List.mem_map.2 ⟨e, he, rfl⟩)

/-- Writing a position below the size keeps a table sound. -/
theorem Table.put_wf {α : Type} {cap k : Nat} {t : Table α} (v : α) (hk : k < cap) (h : Table.wf cap t = true) :
    Table.wf cap (Table.put k v t) = true := by
  rw [Table.wf_iff] at h ⊢
  refine ⟨Table.put_pairwise k v t h.1, fun e he => ?_⟩
  rcases Table.mem_put k v t e he with rfl | he
  · exact hk
  · exact h.2 e he

/-- Leaving entries out keeps a table sound. -/
theorem Table.filter_wf {α : Type} {cap : Nat} {t : Table α} (p : Nat × α → Bool) (h : Table.wf cap t = true) :
    Table.wf cap (t.filter p) = true := by
  rw [Table.wf_iff] at h ⊢
  exact ⟨List.Pairwise.sublist (List.Sublist.map _ (List.filter_sublist ..)) h.1,
    fun e he => h.2 e (List.mem_of_mem_filter he)⟩

theorem Table.drop_wf {α : Type} {cap : Nat} {t : Table α} (k : Nat) (h : Table.wf cap t = true) :
    Table.wf cap (Table.drop k t) = true := Table.filter_wf _ h

/-- Changing entries where they stand keeps a table sound. -/
theorem Table.map_wf {α : Type} {cap : Nat} {t : Table α} (f : Nat × α → Nat × α) (hf : ∀ e, (f e).1 = e.1)
    (h : Table.wf cap t = true) : Table.wf cap (t.map f) = true := by
  rw [Table.wf_iff] at h ⊢
  constructor
  · have : (t.map f).map (·.1) = t.map (·.1) := by simp [List.map_map, Function.comp_def, hf]
    rw [this]
    exact h.1
  · intro e he
    obtain ⟨x, hx, rfl⟩ := List.mem_map.1 he
    rw [hf]
    exact h.2 x hx

theorem Table.change_wf {α : Type} {cap : Nat} {t : Table α} (k : Nat) (f : α → α) (h : Table.wf cap t = true) :
    Table.wf cap (Table.change k f t) = true :=
  Table.map_wf _ (by intro e; split <;> rfl) h

/-- A free position that is found lies below the size. -/
theorem Table.firstFree_lt {α : Type} {cap k : Nat} {t : Table α} (h : Table.firstFree cap t = some k) : k < cap := by
  unfold Table.firstFree at h
  split at h
  · cases h
    assumption
  · cases h

theorem Table.at?_cons {α : Type} (i : Nat) (w : α) (t : Table α) (j : Nat) :
    Table.at? ((i, w) :: t) j = if i = j then some w else t.at? j := by
  by_cases h : i = j <;> simp [Table.at?, h]

theorem Table.at?_put {α : Type} (k : Nat) (v : α) (j : Nat) : ∀ (t : Table α),
    (Table.put k v t).at? j = if k = j then some v else t.at? j
  | [] => by
    rw [Table.put, Table.at?_cons]
  | (i, w) :: rest => by
    unfold Table.put
    split
    · rw [Table.at?_cons]
    · split
      · rename_i hk
        subst hk
        rw [Table.at?_cons, Table.at?_cons]
        split <;> simp_all
      · rw [Table.at?_cons, Table.at?_put k v j rest, Table.at?_cons]
        split <;> split <;> simp_all

/-- A position read after it has been written. -/
theorem Table.at?_put_self {α : Type} (k : Nat) (v : α) (t : Table α) : (Table.put k v t).at? k = some v := by
  rw [Table.at?_put, if_pos rfl]

end Sys2Proof.Machine
end

