-- ==== Sys2Proof/Laws/Lookups.lean ====
section
/-! SUPPORT. What the look-ups answer after the shared operations: one lemma for each look-up and each operation that
writes the table it looks in. -/

namespace Sys2Proof.Machine

theorem State.reached_at (s : State) (t d : Moment) : (s.at t).reached d = decide (d ≤ max s.clock t) := rfl

/-! ## Tables -/

theorem Table.at?_change {α : Type} (k : Nat) (f : α → α) (j : Nat) (t : Table α) :
    (Table.change k f t).at? j = if j = k then (t.at? j).map f else t.at? j := by
  induction t with
  | nil => simp [Table.change, Table.at?]
  | cons e t ih =>
    obtain ⟨i, w⟩ := e
    have h : Table.change k f ((i, w) :: t) = (if i = k then (i, f w) else (i, w)) :: Table.change k f t := by
      simp [Table.change]
    rw [h]
    by_cases hi : i = k
    · rw [if_pos hi, Table.at?_cons, Table.at?_cons, ih]
      by_cases hij : i = j <;> by_cases hj : j = k <;> simp_all
    · rw [if_neg hi, Table.at?_cons, Table.at?_cons, ih]
      by_cases hij : i = j <;> by_cases hj : j = k <;> simp_all

theorem Table.change_change {α : Type} (k : Nat) (f g : α → α) (t : Table α) :
    Table.change k g (Table.change k f t) = Table.change k (fun x => g (f x)) t := by
  simp only [Table.change, List.map_map]
  apply List.map_congr_left
  intro e _
  by_cases h : e.1 = k <;> simp [h]

theorem Table.at?_drop {α : Type} (k j : Nat) (t : Table α) :
    (Table.drop k t).at? j = if j = k then none else t.at? j := by
  induction t with
  | nil => simp [Table.drop, Table.at?]
  | cons e t ih =>
    obtain ⟨i, w⟩ := e
    by_cases hi : i = k
    · have h : Table.drop k ((i, w) :: t) = Table.drop k t := by simp [Table.drop, hi]
      rw [h, ih, Table.at?_cons]
      split <;> simp_all
      omega
    · have h : Table.drop k ((i, w) :: t) = (i, w) :: Table.drop k t := by simp [Table.drop, hi]
      rw [h, Table.at?_cons, Table.at?_cons, ih]
      split <;> simp_all

/-! ## Find after map -/

/-- Looking up by a key after changing the entries of one key, where the change keeps every key. -/
theorem find?_map_key {α κ : Type} [DecidableEq κ] (key : α → κ) (k j : κ) (f : α → α)
    (hf : ∀ a, key a = k → key (f a) = k) (l : List α) :
    (l.map (fun a => if key a = k then f a else a)).find? (fun a => key a == j)
      = (l.find? (fun a => key a == j)).map (fun a => if key a = k then f a else a) := by
  induction l with
  | nil => rfl
  | cons a l ih =>
    by_cases h : key a = k
    · have hk := hf a h
      by_cases hj : k = j <;> simp_all
    · by_cases hj : key a = j <;> simp_all

/-! ## The pool -/

@[simp] theorem cartOf_changeCart (c x : CartSerial) (f : CartRecord → CartRecord) (s : State)
    (hf : ∀ r, (f r).serial = r.serial) :
    cartOf (changeCart c f s) x = if x = c then (cartOf s x).map f else cartOf s x := by
  unfold cartOf changeCart
  dsimp only
  have h := find?_map_key (fun e : Nat × CartRecord => e.2.serial) c x (fun e => (e.1, f e.2))
    (by intro a ha; simp [hf, ha]) s.cp.records
  rw [h]
  cases hr : s.cp.records.find? (fun e => e.2.serial == x) with
  | none => simp
  | some e =>
    have he := List.find?_some hr
    simp only [beq_iff_eq] at he
    simp only [Option.map_some, he]
    split <;> rfl

theorem cartOf_serial {s : State} {x : CartSerial} {r : CartRecord} (h : cartOf s x = some r) : r.serial = x := by
  unfold cartOf at h
  simp only [Option.map_eq_some_iff] at h
  obtain ⟨e, he, rfl⟩ := h
  simpa using List.find?_some he

/-- Entering a state: the record takes it with the new stamp, unless it is in the state already; every other field and
every other record stay. -/
theorem cartOf_enterState (c x : CartSerial) (st : CartState) (s : State) :
    cartOf (enterState c st s) x
      = if x = c then (cartOf s x).map (fun r => if r.state = st then r
          else { r with state := st, stamp := bump 4294967295 s.cp.stamp }) else cartOf s x := by
  unfold enterState
  cases h : cartOf s c with
  | none =>
    dsimp only
    split
    · rename_i hx
      rw [hx, h]
      rfl
    · rfl
  | some r =>
    dsimp only
    split
    · rename_i hs
      split
      · rename_i hx
        rw [hx, h]
        simp [hs]
      · rfl
    · rename_i hs
      rw [cartOf_changeCart]
      swap
      · intro _; rfl
      have e : ∀ y : State, y.cp.records = s.cp.records → cartOf y x = cartOf s x := by
        intro y hy
        unfold cartOf
        rw [hy]
      split
      · rename_i hx
        subst hx
        refine (congrArg _ (e _ rfl)).trans ?_
        rw [h]
        simp [hs]
      · exact e _ rfl

@[simp] theorem cartOf_enterState_map (c x : CartSerial) (st : CartState) (s : State) :
    (cartOf (enterState c st s) x).map (·.state) = if x = c then (cartOf s x).map (fun _ => st)
      else (cartOf s x).map (·.state) := by
  rw [cartOf_enterState]
  split
  · cases cartOf s x with
    | none => rfl
    | some r =>
      simp only [Option.map_some]
      split <;> simp_all
  · rfl

/-! ## The rack -/

@[simp] theorem socketOf_changeSocket (k j : SocketNo) (f : SocketEntry → SocketEntry) (s : State) :
    socketOf (changeSocket k f s) j = if j = k then (socketOf s j).map f else socketOf s j := by
  unfold socketOf changeSocket
  rw [Table.at?_change]
  simp only [Fin.val_inj]

theorem socketOf_congr {s u : State} (h : u.de.sockets = s.de.sockets) (k : SocketNo) : socketOf u k = socketOf s k := by
  unfold socketOf
  rw [h]

theorem cartOf_congr {s u : State} (h : u.cp = s.cp) (c : CartSerial) : cartOf u c = cartOf s c := by
  unfold cartOf
  rw [h]

@[simp] theorem socketOf_clearSlots (k j : SocketNo) (s : State) : socketOf (clearSlots k s) j = socketOf s j := rfl

@[simp] theorem socketOf_endGrant (j : SocketNo) (s : State) : socketOf (endGrant s) j = socketOf s j := rfl

@[simp] theorem socketOf_oweWalk (j : SocketNo) (s : State) : socketOf (oweWalk s) j = socketOf s j := rfl

@[simp] theorem socketOf_raise (e : Event) (j : SocketNo) (s : State) : socketOf (raise e s) j = socketOf s j :=
  socketOf_congr (by simp) j

@[simp] theorem socketOf_changeCart (c : CartSerial) (f : CartRecord → CartRecord) (j : SocketNo) (s : State) :
    socketOf (changeCart c f s) j = socketOf s j := rfl

@[simp] theorem socketOf_enterState (c : CartSerial) (st : CartState) (j : SocketNo) (s : State) :
    socketOf (enterState c st s) j = socketOf s j := socketOf_congr (by simp) j

@[simp] theorem socketOf_unlinkPlan (c : CartSerial) (j : SocketNo) (s : State) :
    socketOf (unlinkPlan c s) j = socketOf s j := by
  unfold unlinkPlan
  split <;> rfl

@[simp] theorem cartOf_changeSocket (k : SocketNo) (f : SocketEntry → SocketEntry) (c : CartSerial) (s : State) :
    cartOf (changeSocket k f s) c = cartOf s c := rfl

@[simp] theorem cartOf_clearSlots (k : SocketNo) (c : CartSerial) (s : State) : cartOf (clearSlots k s) c = cartOf s c :=
  rfl

@[simp] theorem cartOf_endGrant (c : CartSerial) (s : State) : cartOf (endGrant s) c = cartOf s c := rfl

@[simp] theorem cartOf_oweWalk (c : CartSerial) (s : State) : cartOf (oweWalk s) c = cartOf s c := rfl

@[simp] theorem cartOf_raise (e : Event) (c : CartSerial) (s : State) : cartOf (raise e s) c = cartOf s c :=
  cartOf_congr (by simp) c

@[simp] theorem cartOf_unlinkPlan (x c : CartSerial) (s : State) : cartOf (unlinkPlan x s) c = cartOf s c :=
  cartOf_congr (by simp) c

/-- Unlinking owes a walk and touches nothing else of the rack. -/
@[simp] theorem unlinkPlan_rack (c : CartSerial) (s : State) :
    (unlinkPlan c s).de.sockets = s.de.sockets ∧ (unlinkPlan c s).de.writeSlot = s.de.writeSlot
      ∧ (unlinkPlan c s).de.readSlot = s.de.readSlot ∧ (unlinkPlan c s).de.grant = s.de.grant
      ∧ (unlinkPlan c s).de.unidentified = s.de.unidentified ∧ (unlinkPlan c s).de.lastGranted = s.de.lastGranted := by
  unfold unlinkPlan
  split <;> simp [oweWalk]

/-- Only a written planned cartridge names a cartridge that has been unlinked. -/
theorem unlinkPlan_unlinked (c : CartSerial) (s : State) (p : Nat) (pc : PlannedCart)
    (h : (unlinkPlan c s).wq.plan.at? p = some pc) (hl : pc.link = some c) : pc.written = true := by
  unfold unlinkPlan Table.at? at h
  simp only [Option.map_eq_some_iff] at h
  obtain ⟨e, he, rfl⟩ := h
  have hm := List.mem_of_find?_eq_some he
  simp only [List.mem_map] at hm
  obtain ⟨a, -, rfl⟩ := hm
  by_cases ha : a.2.madeOn c = true
  · simp [ha, PlannedCart.refigure] at hl
  · simp only [ha] at hl ⊢
    simp only [PlannedCart.madeOn, Bool.and_eq_true, beq_iff_eq, Bool.not_eq_true', not_and, Bool.not_eq_false] at ha
    exact ha hl

@[simp] theorem socketOf_landRead (k j : SocketNo) (bytes : List Byte) (s : State) :
    socketOf (landRead k bytes s) j = socketOf s j := rfl

@[simp] theorem socketOf_emptyRead (j : SocketNo) (s : State) : socketOf (emptyRead s) j = socketOf s j := rfl

@[simp] theorem cartOf_landRead (k : SocketNo) (bytes : List Byte) (c : CartSerial) (s : State) :
    cartOf (landRead k bytes s) c = cartOf s c := rfl

@[simp] theorem cartOf_emptyRead (c : CartSerial) (s : State) : cartOf (emptyRead s) c = cartOf s c := rfl

@[simp] theorem socketOf_restSocket (k j : SocketNo) (s : State) :
    socketOf (restSocket k s) j = if j = k then (socketOf s j).map SocketEntry.rest else socketOf s j :=
  socketOf_changeSocket k j _ s

@[simp] theorem socketOf_fallSilent (k j : SocketNo) (s : State) :
    socketOf (fallSilent k s) j
      = if j = k then (socketOf s j).map (fun e => { e with silent := true }) else socketOf s j :=
  socketOf_changeSocket k j _ s

@[simp] theorem cartOf_restSocket (k : SocketNo) (c : CartSerial) (s : State) : cartOf (restSocket k s) c = cartOf s c :=
  rfl

@[simp] theorem cartOf_fallSilent (k : SocketNo) (c : CartSerial) (s : State) : cartOf (fallSilent k s) c = cartOf s c :=
  rfl

@[simp] theorem socketOf_writtenPlan (c : CartSerial) (j : SocketNo) (s : State) :
    socketOf (writtenPlan c s) j = socketOf s j := rfl

@[simp] theorem cartOf_writtenPlan (x c : CartSerial) (s : State) : cartOf (writtenPlan x s) c = cartOf s c := rfl

/-- A socket that is silent, or whose cartridge works on its own, has no next step (R94, R96). -/
theorem nextStep_none {s : State} {k : SocketNo} {e : SocketEntry} (h : socketOf s k = some e)
    (hn : e.silent = true ∨ e.deadline.isSome = true) : nextStep s k = none := by
  unfold nextStep
  rw [h]
  dsimp only
  rw [if_neg]
  rcases hn with hn | hn <;> simp [hn]
  intro _ h
  simp [h] at hn

/-! ## The event queue -/

/-- An event raised while there is room stands at the tail (R188). -/
theorem raise_events {e : Event} {s : State} (h : s.pp.events.length < 32) :
    (raise e s).pp.events = s.pp.events ++ [e] := by
  simp [raise, h]

/-! ## Fetch and serve streams, directory -/

@[simp] theorem fetchOf_setFetch (x y : StreamNo) (v : FetchStream) (s : State) :
    fetchOf (setFetch y v s) x = if x = y then v else fetchOf s x := by
  unfold fetchOf setFetch
  rcases Fin.exists_fin_two.1 ⟨x, rfl⟩ with h | h <;> rcases Fin.exists_fin_two.1 ⟨y, rfl⟩ with g | g <;> subst h g <;> simp

@[simp] theorem serveOf_setServe (x y : StreamNo) (v : Option ServeStream) (s : State) :
    serveOf (setServe y v s) x = if x = y then v else serveOf s x := by
  unfold serveOf setServe
  rcases Fin.exists_fin_two.1 ⟨x, rfl⟩ with h | h <;> rcases Fin.exists_fin_two.1 ⟨y, rfl⟩ with g | g <;> subst h g <;> simp

theorem otherStream_ne (x : StreamNo) : otherStream x ≠ x := by
  revert x
  decide

@[simp] theorem dirAt_changeDir (i j : Nat) (f : DirEntry → DirEntry) (s : State) :
    dirAt (changeDir i f s) j = if j = i then (dirAt s j).map f else dirAt s j := by
  unfold dirAt changeDir
  rw [Table.at?_change]

theorem dirAt_congr {s u : State} (h : u.isc.directory = s.isc.directory) (i : Nat) : dirAt u i = dirAt s i := by
  unfold dirAt
  rw [h]

@[simp] theorem dirAt_freeEntry (i j : Nat) (s : State) :
    dirAt (freeEntry i s) j = if j = i then none else dirAt s j := by
  unfold dirAt freeEntry
  dsimp only
  rw [Table.at?_drop]
  rfl

theorem fetchOf_congr {s u : State} (h0 : u.isc.fetch0 = s.isc.fetch0) (h1 : u.isc.fetch1 = s.isc.fetch1) (x : StreamNo) :
    fetchOf u x = fetchOf s x := by
  unfold fetchOf
  rw [h0, h1]

theorem serveOf_congr {s u : State} (h0 : u.isc.serve0 = s.isc.serve0) (h1 : u.isc.serve1 = s.isc.serve1) (x : StreamNo) :
    serveOf u x = serveOf s x := by
  unfold serveOf
  rw [h0, h1]

/-! ## Records, holds, loans, shelf, auctions -/

@[simp] theorem recordOf_changeRecord (o p : OrderSerial) (f : WorkRecord → WorkRecord) (s : State)
    (hf : ∀ r, (f r).order = r.order) :
    recordOf (changeRecord o f s) p = if p = o then (recordOf s p).map f else recordOf s p := by
  unfold recordOf changeRecord
  dsimp only
  rw [find?_map_key (fun r : WorkRecord => r.order) o p f (by intro a ha; simp [hf, ha])]
  cases hr : s.wq.records.find? (fun r => r.order == p) with
  | none => simp
  | some r =>
    have he := List.find?_some hr
    simp only [beq_iff_eq] at he
    simp only [Option.map_some, he]
    split <;> rfl

theorem recordOf_congr {s u : State} (h : u.wq.records = s.wq.records) (o : OrderSerial) : recordOf u o = recordOf s o := by
  unfold recordOf
  rw [h]

theorem loanOf_congr {s u : State} (h : u.lu.loans = s.lu.loans) (t : LoanTag) : loanOf u t = loanOf s t := by
  unfold loanOf
  rw [h]

theorem shelfOf_congr {s u : State} (h : u.shu.shelf = s.shu.shelf) (t : Title) : shelfOf u t = shelfOf s t := by
  unfold shelfOf
  rw [h]

theorem auctionOf_congr {s u : State} (h : u.au = s.au) (o : OrderSerial) : auctionOf u o = auctionOf s o := by
  unfold auctionOf
  rw [h]

theorem holdOf_congr {s u : State} (h : u.shu.holds = s.shu.holds) (o : OrderSerial) (i : Nat) :
    holdOf u o i = holdOf s o i := by
  unfold holdOf
  rw [h]

@[simp] theorem holdOf_removeHold (o p : OrderSerial) (i j : Nat) (s : State) :
    holdOf (removeHold o i s) p j = if p = o ∧ j = i then none else holdOf s p j := by
  unfold holdOf removeHold
  dsimp only
  generalize s.shu.holds = l
  induction l with
  | nil => simp
  | cons a l ih =>
    by_cases ha : isHold o i a = true
    · rw [List.filter_cons_of_neg (by simp [ha]), ih]
      simp only [isHold, Bool.and_eq_true, beq_iff_eq] at ha
      split
      · rfl
      · rename_i hn
        rw [List.find?_cons_of_neg]
        simp only [isHold, Bool.and_eq_true, beq_iff_eq]
        rintro ⟨h1, h2⟩
        exact hn ⟨h1 ▸ ha.1, h2 ▸ ha.2⟩
    · rw [List.filter_cons_of_pos (by simp [ha])]
      by_cases hp : isHold p j a = true
      · rw [List.find?_cons_of_pos hp, List.find?_cons_of_pos hp, if_neg]
        rintro ⟨rfl, rfl⟩
        exact ha hp
      · rw [List.find?_cons_of_neg hp, List.find?_cons_of_neg hp, ih]

/-! ## Offering a frame -/

/-- A frame that is neither a BID nor an AVAILABLE, offered while the queue has room, joins its tail and nothing else
changes (R15). -/
theorem offerFrame_room (b : Producer) (f : Frame) (s : State)
    (hm : s.fli.txState ≠ .muted) (hq : s.fli.queue.length ≤ 15) (hb : f.kind ≠ .bid) (ha : f.kind ≠ .available) :
    offerFrame b f s = { s with fli := { s.fli with queue := s.fli.queue ++ [f] } } := by
  unfold offerFrame tryOffer noteAccepted
  have h : queueHasRoom s.fli.queue f.kind = true := by
    unfold queueHasRoom
    split <;> simp_all
  simp [muted, hm, h]

/-! ## The order of several offers -/

/-- An arrangement of a list is the list in some order. -/
theorem arrange_perm {α : Type} : ∀ (n i : Nat) (xs : List α), xs.length ≤ n → (arrange n i xs).Perm xs
  | 0, i, xs, h => by
    have : xs = [] := List.length_eq_zero_iff.1 (Nat.le_zero.1 h)
    subst this
    exact List.Perm.refl _
  | n + 1, i, xs, h => by
    unfold arrange
    by_cases hx : xs.length = 0
    · have : xs = [] := List.length_eq_zero_iff.1 hx
      subst this
      simp
    · have hj : i % xs.length < xs.length := Nat.mod_lt _ (Nat.pos_of_ne_zero hx)
      rw [List.getElem?_eq_getElem hj]
      have hl : (xs.eraseIdx (i % xs.length)).length ≤ n := by
        rw [List.length_eraseIdx_of_lt hj]
        omega
      exact (List.Perm.cons _ (arrange_perm n _ _ hl)).trans (List.getElem_cons_eraseIdx_perm hj)

/-- Every order of a list is one of its arrangements. -/
theorem arrange_every {α : Type} : ∀ (ys xs : List α), ys.Perm xs → ∃ i, arrange xs.length i xs = ys
  | [], xs, h => ⟨0, by rw [List.nil_perm.1 h]; rfl⟩
  | y :: ys, xs, h => by
    have hy : y ∈ xs := h.subset (by simp)
    obtain ⟨j, hj, hjy⟩ := List.getElem_of_mem hy
    have hp : ys.Perm (xs.eraseIdx j) :=
      List.Perm.cons_inv ((hjy ▸ h).trans (List.getElem_cons_eraseIdx_perm hj).symm)
    obtain ⟨q, hq⟩ := arrange_every ys (xs.eraseIdx j) hp
    have hn : xs.length = (xs.eraseIdx j).length + 1 := by
      rw [List.length_eraseIdx_of_lt hj]
      omega
    refine ⟨j + q * xs.length, ?_⟩
    rw [hn]
    unfold arrange
    rw [← hn, Nat.add_mul_mod_self_right, Nat.mod_eq_of_lt hj, List.getElem?_eq_getElem hj, hjy]
    dsimp only
    rw [Nat.add_mul_div_right _ _ (by omega), Nat.div_eq_of_lt hj, Nat.zero_add, hq]

/-! ## Commands -/

@[simp] theorem codeOf_commandByte (code high : BitVec 4) : codeOf (commandByte code high) = code := by
  revert code high
  decide

@[simp] theorem highOf_commandByte (code high : BitVec 4) : highOf (commandByte code high) = high := by
  revert code high
  decide

/-- A location of a plain latch is written as the latch (R185, R202). -/
@[simp] theorem panelWrite_latch (place : LatchPlace) (b : Byte) (s : State) :
    panelWrite (latchLocation place) b s = writeLatch place b s := by
  match place with
  | .status | .data | .argument 0 | .argument 1 | .argument 2 | .argument 3 => rfl

/-- A write of the command location is one of three things: it is ignored, the command is taken and stands Executing, or
its code names none and it ends at once, refused (R190). -/
theorem takeCommand_cases (b : Byte) (s : State) :
    (commandClosed s = true ∧ takeCommand b s = ignoreCommand b s)
      ∨ (commandClosed s = false ∧ namesCommand (codeOf b) = true ∧ takeCommand b s = startCommand b s)
      ∨ (commandClosed s = false ∧ namesCommand (codeOf b) = false
          ∧ takeCommand b s = endCommand .refused (startCommand b s)) := by
  unfold takeCommand
  cases commandClosed s <;> cases namesCommand (codeOf b) <;> simp

@[simp] theorem startCommand_slot (b : Byte) (s : State) : (startCommand b s).pp.slot = .executing (takenBy b s) := rfl

@[simp] theorem endCommand_slot (o : CommandOutcome) (s : State) : (endCommand o s).pp.slot = .idle := rfl

@[simp] theorem endCommand_outcome (o : CommandOutcome) (s : State) : (endCommand o s).pp.outcome = o := rfl

/-- The act of a row whose command the slot is Executing carries that command out (R190). -/
theorem actOn_executing {code high : BitVec 4} {w : TakenCommand} {s : State} (hs : s.pp.slot = .executing w)
    (hw : w.byte = commandByte code high) : actOn code s = carryOut w s := by
  unfold actOn
  simp [hs, hw]

/-- The act of a row on the command that the slot is Executing (R190). -/
theorem commandEvent_act {code high : BitVec 4} {w : TakenCommand} {s : State} (hs : s.pp.slot = .executing w)
    (hw : w.byte = high ++ code) : commandEvent code .act s = carryOut w s :=
  actOn_executing hs hw

/-- Which act the byte of a taken command names (R191, R202). -/
theorem commandAct_byte {high : BitVec 4} {w : TakenCommand} (s : State) :
    (w.byte = high ++ 1#4 → commandAct w s = actPause s) ∧ (w.byte = high ++ 2#4 → commandAct w s = actResume s)
      ∧ (w.byte = high ++ 3#4 → commandAct w s = actPickDone w s) ∧ (w.byte = high ++ 4#4 → commandAct w s = actShelfAdd w s)
      ∧ (w.byte = high ++ 5#4 → commandAct w s = actShelfWithdraw w s)
      ∧ (w.byte = high ++ 6#4 → commandAct w s = actSackChanged w s) ∧ (w.byte = high ++ 7#4 → commandAct w s = actSackClose w s)
      ∧ (w.byte = high ++ 8#4 → commandAct w s = cardRewrite s)
      ∧ (w.byte = high ++ 9#4 → commandAct w s = actContainerWithdraw w s)
      ∧ (w.byte = high ++ 10#4 → commandAct w s = actReturnKeyed w s) := by
  have code : ∀ c : BitVec 4, codeOf (high ++ c) = c := fun c => codeOf_commandByte c high
  refine ⟨?_, ?_, ?_, ?_, ?_, ?_, ?_, ?_, ?_, ?_⟩ <;> intro h <;> unfold commandAct <;> rw [h, code] <;> rfl

/-- The small argument of a taken command is the high four bits of its byte (R190). -/
theorem highOf_append (high code : BitVec 4) : highOf (high ++ code) = high := highOf_commandByte code high

/-- The act of a row whose command the slot is not Executing is out of place (log 6). -/
theorem actOn_other {code : BitVec 4} {s : State} (h : ∀ w, s.pp.slot = .executing w → codeOf w.byte ≠ code) :
    actOn code s = s := by
  unfold actOn
  split
  · rw [if_neg (h _ ‹_›)]
  · rfl

/-- A command that is carried out is accepted with what its act leaves, or refused with nothing else changed (R190,
R191). -/
theorem carryOut_cases (w : TakenCommand) (s : State) :
    (∃ u, commandAct w s = some u ∧ carryOut w s = endCommand .accepted u)
      ∨ (commandAct w s = none ∧ carryOut w s = endCommand .refused s) := by
  unfold carryOut
  cases commandAct w s <;> simp

end Sys2Proof.Machine
end

