-- ==== Sys2Proof/Tests/Slice0.lean ====
section
/-! SUPPORT. The model's own tests: ill-formed commands are refused, the manual's worked examples, one step of each
family of commands, and for each statement that has hypotheses a state that meets them. -/

set_option Elab.async false

namespace Sys2Proof.Tests

open Sys2Proof Sys2Proof.Machine

/-! ## Ill-formed commands -/

theorem test_wellFormed_frameEnd : (Instr.frameEnd 0 (List.replicate 20 false)).wellFormed = false := by decide
theorem test_wellFormed_frameEnd_flag : (Instr.frameEnd 0 flagBits).wellFormed = false := by decide
theorem test_wellFormed_image : (Instr.powerOnReset 0
    { straps := 1, cfgSrc := true, image := List.replicate 160 0, present := [], gate := false, chute := false }
    ).wellFormed = false := by decide +kernel
theorem test_wellFormed_warmImage : (Instr.warmReset 0
    { straps := 1, cfgSrc := true, image := List.replicate 160 0, present := [], gate := false, chute := false }
    ).wellFormed = false := by decide +kernel
theorem test_wellFormed_serveFade : (Instr.serveSliceRead 0 0 { bytes := [(4096 * 64 * 65536, 1)], checks := [] }
    ).wellFormed = false := by decide
theorem test_wellFormed_scrubFade : (Instr.scrubSectorRead 0 { bytes := [], checks := [(4096 * 64, 1)] }
    ).wellFormed = false := by decide
theorem test_wellFormed_slotFade : (Instr.writeSlotFilled 0 { bytes := [], checks := [(4096 * 64, 1)] }
    ).wellFormed = false := by decide
theorem test_wellFormed_sector : (Instr.sectorReadDone 0 [1, 2] { bytes := [], checks := [] }).wellFormed = false := by
  decide
theorem test_wellFormed_area : (Instr.headerReadDone 0 (List.replicate 10 0)).wellFormed = false := by decide
theorem test_wellFormed_item : (Instr.holdDeadline 0 7 8).wellFormed = false := by decide
theorem test_wellFormed_face : (Instr.cardImageComplete 0 (List.replicate 24 false)).wellFormed = false := by decide

/-! ## The manual's worked examples -/

/-- R152: the check digits of the loans 4711 to 4713 of station 9. -/
theorem test_checkDigits :
    [4711, 4712, 4713].map (fun n => tagCheckDigit { station := 9, serial := BitVec.ofNat 20 n }) = [2, 9, 6] := by
  decide +kernel

/-- R196: the load sum of the default settings. -/
theorem test_defaultLoadSum : loadSum Settings.default = defaultLoadSum := by decide +kernel

/-- R151: the dates of the worked cases and of the last day that a day number can name. -/
theorem test_dates : [9131, 9173, 9187, 65535].map dateOf = [20241231, 20250211, 20250225, 21790606] := by
  decide +kernel

/-- R24: the split example: an item of 12000 sectors, then one of 2000, on K 8192 and G 4. -/
theorem test_splitPlan : fillPlan 8192 4 [{ item := 0, start := 0, len := 12000 }, { item := 1, start := 0, len := 2000 }]
    = [[{ item := 0, part := 0, imageStart := 0, length := 8188, cartStart := 4 }],
       [{ item := 0, part := 1, imageStart := 8188, length := 3812, cartStart := 4 },
        { item := 1, part := 0, imageStart := 0, length := 2000, cartStart := 3816 }]] := by decide

/-- An Active station 9 on a quiet line, its day known and its lane Running. -/
def nine : State :=
  { State.reset with
    cfl := { State.reset.cfl with station := 9 }
    fli := { State.reset.fli with txState := .active, joinFrom := none, lastSender := some 0, slotZero := some 0 }
    lu := { State.reset.lu with day := 9131, dayKnown := true }
    mlc := { State.reset.mlc with lane := none }
    pp := { State.reset.pp with events := [] } }

/-- The state that a command leaves. -/
def after (c : Instr) (s : State) : State :=
  match exec c s with
  | .next u => u
  | .fault f => nomatch f
  | .refused _ => s

theorem witness_StagesLeaveOtherBlocksAlone : nine.de.readSlot = none := by decide

/-- The state after reset is what POWER_ON_RESET makes of it. -/
theorem test_resetIsAStart : after (.powerOnReset 0
    { straps := 1, cfgSrc := false, image := [], present := [], gate := false, chute := false }) State.reset
      = State.reset := by decide +kernel

/-- The offer of the worked case of chapter 2, order 00012A3Ch. -/
def offer : Offer :=
  { patron := 70, zone := 140, urgency := .normal
    items := [{ kind := .audio, title := 1, version := 1, amount := 5000 },
              { kind := .audio, title := 2, version := 1, amount := 3500 },
              { kind := .braille, title := 3, version := 0, amount := 6 }] }

/-- Its OFFER frame. -/
def offerFrom0 : Frame := { dest := 255, kind := .offer, subject := 0x12A3C, detail := 0, payload := offerBytes offer }

/-- A Ready cartridge that is out of the rack. -/
def readyCart (n : Nat) : CartRecord :=
  { serial := BitVec.ofNat 32 n, capClass := 1, e := 2, wear := 0, state := .ready, socket := none, link := none
    tag := none, stamp := 0 }

/-- Station 9 with a free copy of T3 and six Ready cartridges. -/
def nineStocked : State :=
  { nine with
    shu := { nine.shu with
      shelf := [(0, { title := 3, perCopy := 6, owned := 1, onShelf := 1, reserved := 0, mark := false })] }
    cp := { records := (List.range 6).map (fun i => (i, readyCart (100 + i))), stamp := 0 } }

/-- What follows the opening flag of a frame that a station sends. -/
def heard (source : Station) (f : Frame) : List Bool := (lineBits source f).drop 8

/-- R20 to R32: at the worked case's OFFER station 9 queues its BID with cost 922, key 13 and a free copy of item 2. -/
theorem test_frameEnd_offer : (after (.frameEnd 0 (heard 0 offerFrom0)) nineStocked).fli.queue
    = [bidFrame 0x12A3C 922 13 { images := 0, copies := 4, cartridges := 2 }] := by decide +kernel

/-! ## Steps and invariants: the hypotheses of the statements are met -/

/-- Frame content with no subject, detail or payload, and its line bits after the opening flag. -/
def rawHeard (source dest kind : Nat) : List Bool :=
  let content := bytesLE 1 source ++ bytesLE 1 dest ++ bytesLE 1 kind ++ List.replicate 10 0
  stuff 0 ((content ++ bytesLE 2 (crc16 content).toNat).flatMap bitsOfByte) ++ flagBits

/-- What a station receives of it. -/
def rawFrame (source : Station) (dest kind : Nat) : Received :=
  { source := source, dest := dest, kind := kind, subject := 0, detail := 0, payload := [] }

/-- Station 9 without the auctions, muted. -/
def mutedNine : State := { nine with fli := { nine.fli with txState := .muted } }

/-- One command waits. -/
def queued (s : State) (c : Instr) : State := { s with pending := [c] }

/-- The command slot is Executing the command of a byte, taken with the argument bytes as they stand. -/
def taking (b : Byte) (s : State) : State := { s with pp := { s.pp with slot := .executing (takenBy b s) } }

theorem witness_StepTakesFrontCommand : (queued nine (.pause 0 .act)).pending = [.pause 0 .act] ∧ nine.pending = [] := by
  decide

/-- The hypotheses of StepKeepsQueuesAndCountersBounded, StepKeepsTablesSound, StepKeepsStoreCanonical and
MutedStationStaysSilent, at one state. -/
theorem witness_StepInvariants : ∃ s u, s.bounded ∧ s.tablesSound ∧ s.storeCanonical ∧ s.silentWhenMuted
    ∧ s.fli.txState = .muted ∧ step s = .next u ∧ u.pp.pause = true :=
  ⟨queued (taking 1 mutedNine) (.pause 0 .act), after (.pause 0 .act) (taking 1 mutedNine), by decide +kernel, by decide +kernel, by decide +kernel,
    by decide +kernel, by decide, rfl, by decide +kernel⟩

theorem witness_OnlyResetsChangeSettings :
    (∀ c ∈ [Instr.detection 0, .pause 0 .act, .resume 0 .act, .pause 0 (.write 0), .refusedWrite 0 3],
      c.isReset = false ∧ ∃ u, exec c nine = .next u)
    ∧ (∀ c ∈ [Instr.detection 0, .pause 0 (.write 0), .refusedWrite 0 1],
      (∀ t, c ≠ .pause t .act) ∧ ∀ t, c ≠ .resume t .act)
    ∧ (Instr.detection 0).isPanelCommand = false ∧ (Instr.registerWrite 0 (.argument 0) 1).isPanelCommand = false := by
  refine ⟨fun c hc => ⟨?_, after c nine, ?_⟩, fun c hc => ?_, rfl, rfl⟩
  · simp only [List.mem_cons, List.not_mem_nil, or_false] at hc
    obtain rfl | rfl | rfl | rfl | rfl := hc <;> rfl
  · simp only [List.mem_cons, List.not_mem_nil, or_false] at hc
    obtain rfl | rfl | rfl | rfl | rfl := hc <;> rfl
  · simp only [List.mem_cons, List.not_mem_nil, or_false] at hc
    obtain rfl | rfl | rfl := hc <;> simp

/-! ## Formats and start-up -/

theorem witness_SentFramesAreReceived : ∀ n ∈ [0, 1040], ∃ f : Frame, f.payload.length = n ∧ f.payload.length ≤ 1040 :=
  fun n hn => ⟨{ dest := 255, kind := .day, subject := 0, detail := 0, payload := List.replicate n 0 },
    by simp, by simp at hn ⊢; omega⟩

theorem test_sentFrameIsReceived : receive (heard 0 offerFrom0) = some
    { source := 0, dest := 255, kind := 1, subject := 0x12A3C, detail := 0, payload := offerBytes offer } := by
  decide +kernel

theorem witness_FormatsReadBack :
    (∀ n ∈ [1, 4], ∃ serials : List CartSerial, serials.length = n ∧ (1 : Station) ≠ 0)
    ∧ (∀ x ∈ [(1, 1, 1), (1, 1, 4), (3, 3, 9), (3, 3, 12)], 1 ≤ x.1 ∧ x.1 ≤ x.2.1 ∧ x.2.1 ≤ 3
      ∧ 4 * x.1 - 3 ≤ x.2.2 ∧ x.2.2 ≤ 4 * x.1)
    ∧ (∃ before after : List Nat, before.length + after.length = 8 ∧ 0 < 10 ∧ 9 < 10 ∧ 0 ≠ 9)
    ∧ (∃ h : Header, h.capClass < 256 ∧ h.e < 256 ∧ h.width < 256 ∧ h.access < 256 ∧ h.wear < 65536)
    ∧ (∀ d ∈ [0, 65535], d ≤ 65535) ∧ (7 < 8)
    ∧ ∀ n ∈ [1, 8], ∃ o : Offer, o.items.length = n ∧ o.items.all Item.inRange = true ∧ o.zone ≤ 999 :=
  ⟨fun n _ => ⟨List.replicate n 7, by simp, by decide⟩, by decide, ⟨[], [1, 2, 3, 4, 5, 6, 7, 8], by decide⟩,
    ⟨{ serial := 1, capClass := 255, e := 4, width := 16, access := 3, wear := 65535, erased := true }, by decide⟩, by decide, by decide,
    fun n _ => ⟨{ patron := 1, zone := 999, urgency := .urgent
                  items := List.replicate n { kind := .audio, title := 1, version := 1, amount := 16383 } },
      by simp, by simp [Item.inRange], by simp⟩⟩

/-- R152, R175: the cards of the worked loans read back. -/
theorem test_returnFace : readCard (returnFace { tag := ⟨9, 4712⟩, body := .braille 3 ⟨9, 4712⟩ 1 2 1 4 })
    = .card { tag := ⟨9, 4712⟩, body := .braille 3 ⟨9, 4712⟩ 1 2 1 4 } := by decide +kernel
theorem test_returnFace_largest :
    readCard (returnFace { tag := ⟨15, 1048575⟩, body := .cartridge [1, 2, 3, 0xFFFFFFFF] })
      = .card { tag := ⟨15, 1048575⟩, body := .cartridge [1, 2, 3, 0xFFFFFFFF] } := by decide +kernel

/-- The reset inputs of station `n` with nothing in the cell. -/
def inputs (n : Station) : ResetInputs :=
  { straps := n, cfgSrc := false, image := [], present := [], gate := false, chute := false }

/-- A good image is loaded, its settings brought into range: bid window 5, overflow bin 11. -/
theorem test_goodImage :
    let image := List.replicate 155 255 ++ [0, 0] ++ bytesLE 2 (155 * 255)
    imageGood image = true
      ∧ (loadSettings { inputs 1 with cfgSrc := true, image := image }).1.overflowBin = 11
      ∧ (loadSettings { inputs 1 with cfgSrc := true, image := image }).1.takeWait = 1000
      ∧ (loadSettings { inputs 1 with cfgSrc := true, image := image }).1.rules = [] := by decide +kernel

/-- The marker that a start of these inputs writes. -/
def markerOf (inp : ResetInputs) : Marker :=
  { pattern := true, station := inp.straps, source := inp.cfgSrc, loadSum := loadSum (loadSettings inp).1, check := true }

/-- Reset inputs with the configuration memory strapped on. -/
def configured (image : List Byte) : ResetInputs := { inputs 1 with cfgSrc := true, image := image }

theorem witness_PowerOnResetEmptiesTheTables : (inputs 0).cfgSrc = false ∧ imageGood (configured []).image = false
    ∧ (∀ b ∈ [(0 : Byte), 255], (configured (List.replicate 157 b ++ bytesLE 2 (157 * b.toNat))).cfgSrc = true
      ∧ imageGood (configured (List.replicate 157 b ++ bytesLE 2 (157 * b.toNat))).image = true) := by decide +kernel

theorem witness_WarmResetGoesByTheMarker :
    State.reset.cfl.marker = markerOf (inputs 1)
      ∧ (∀ m ∈ [{ markerOf (inputs 1) with pattern := false }, { markerOf (inputs 1) with check := false }, markerOf (inputs 2)],
        m ≠ markerOf (inputs 1)) := by decide +kernel

/-! ## The floor line -/

/-- Station 9 before phase 5 of a start. -/
def startingNine : State := { nine with cfl := { nine.cfl with phase := .blocks } }

/-- Content that ends in a flag, and in an abort. -/
def badBits (ending : List Bool) : List Bool := List.replicate 20 false ++ ending

/-- Station 9 with the line at a level. -/
def lined (l : LineLevel) : State := { nine with fli := { nine.fli with line := l } }

theorem witness_FrameEndRestartsTheTurns : nine.cfl.phase = .running ∧ startingNine.cfl.phase = .blocks
    ∧ (splitEnding (rawHeard 2 255 14)).1 ≠ [] ∧ receive (rawHeard 2 255 14) = some (rawFrame 2 255 14)
    ∧ (∀ e ∈ [flagBits, abortBits], (splitEnding (badBits e)).1 ≠ [] ∧ receive (badBits e) = none ∧ (splitEnding e).1 = [])
    ∧ (State.reset.fli.txState = .joining ∧ State.reset.cfl.phase = .running ∧ State.reset.fli.joinFrom = some 0
      ∧ 0 + 16384 ≤ max State.reset.clock 16384)
    ∧ (∀ j, State.reset.fli.joinFrom = some j → max State.reset.clock 16383 < j + 16384)
    ∧ nine.fli.txState ≠ .joining
    ∧ ∀ l ∈ [LineLevel.idle, .closed, .stray, .flagged, .content], (lined l).cfl.phase = .running ∧ (lined l).fli.line = l := by
  refine ⟨by decide, by decide, by decide +kernel, by decide +kernel, by decide +kernel, by decide, ?_, by decide,
    by decide⟩
  rintro j h
  cases h
  decide

theorem witness_GoodFramesReachTheirBlocks_dropped : nine.cfl.phase = .running
    ∧ ∀ x ∈ [(2, 3, 5), (2, 255, 0), (2, 255, 14), (2, 255, 255), (2, 255, 1), (2, 255, 3)],
      receive (rawHeard x.1 x.2.1 x.2.2) = some (rawFrame (BitVec.ofNat 4 x.1) x.2.1 x.2.2)
        ∧ BitVec.ofNat 4 x.1 ≠ nine.cfl.station
        ∧ ((x.2.1 ≠ nine.cfl.station.toNat ∧ x.2.1 ≠ 255) ∨ x.2.2 = 0 ∨ 13 < x.2.2
          ∨ (x.2.2 ≤ 3 ∧ BitVec.ofNat 4 x.1 ≠ 0)) := by decide +kernel

theorem witness_GoodFramesReachTheirBlocks : nine.cfl.phase = .running
    ∧ ∀ k ∈ [1, 2, 3, 4, 5, 6, 7, 8, 9, 10, 11, 12, 13], ∀ d ∈ [9, 255],
      receive (rawHeard 0 d k) = some (rawFrame 0 d k) ∧ (rawFrame 0 d k).source ≠ nine.cfl.station
        ∧ ((rawFrame 0 d k).dest = nine.cfl.station.toNat ∨ (rawFrame 0 d k).dest = 255)
        ∧ (rawFrame 0 d k).kind = k ∧ (rawFrame 0 d k).source = 0 := by decide +kernel

/-- R33: a BID on the line is recorded in the auction of its order. -/
theorem test_frameEnd_bid : ((auctionOf (after (.frameEnd 0 (heard 2 (bidFrame 0 7 (keyOf 2 0) ⟨0, 0, 1⟩)))
    { nine with au := { nine.au with entries := [(0, { newEntry nine 0 offer with order := 0 })] } }) 0).map (fun e =>
      e.heard.map (·.station))) = some [2] := by decide +kernel

theorem witness_NumberClashMutes : nine.cfl.phase = .running
    ∧ receive (rawHeard 9 255 4) = some (rawFrame 9 255 4) ∧ (rawFrame 9 255 4).source = nine.cfl.station
    ∧ nine.fli.ownEndDue = false ∧ nine.fli.txState ≠ .muted ∧ nine.pp.events.length < 32
    ∧ mutedNine.cfl.phase = .running ∧ mutedNine.fli.txState = .muted
    ∧ { nine.fli with ownEndDue := true }.ownEndDue = true := by decide +kernel

/-- R14, R1: a flag within the quiet measurement of a joining station stops it. -/
theorem test_flagStopsJoining : (after (.lineBusy 5 .flag) State.reset).fli.joinFrom = none
    ∧ (after (.joiningQuietTimeout 16384) (after (.lineBusy 5 .flag) State.reset)).fli.txState = .joining := by
  decide +kernel

/-- A serve stream with slice 0 of sector 0 read. -/
def serving : ServeStream :=
  { requester := 2, name := ⟨3, 1⟩, entry := 0, sector := 0, slice := 0, runEnd := 1, infoSent := true,
    ready := some (List.replicate 1024 0, none), onLine := false }

/-- Station 9 with a serve stream that sends. -/
def nineServing : State := { nine with isc := { nine.isc with serve0 := some serving } }

/-- Station 9 with a frame to send. -/
def nineQueued : State := { nine with fli := { nine.fli with queue := [offerFrom0] } }

theorem witness_OwnSlotBeginsTheNextFrame :
    (nineQueued.fli.txState = .active ∧ nineQueued.fli.line.quiet = true ∧ nineQueued.fli.sending = none
      ∧ nineQueued.fli.lastSender = some 0 ∧ nineQueued.fli.slotZero = some 0 ∧ nineQueued.fli.queue = [offerFrom0])
    ∧ (∀ n ∈ [8, 24], max nine.clock (64 * n) = 0 + 64 * n ∧ BitVec.ofNat 4 n = nine.cfl.station - 0 - 1)
    ∧ (nineServing.fli.queue = [] ∧ serveReady nineServing 0 = true
      ∧ (serveReady nineServing (otherStream 0) = true → nineServing.fli.alternation = 0)
      ∧ serveOf nineServing 0 = some serving)
    ∧ (nine.fli.queue = [] ∧ serveReady nine 0 = false ∧ serveReady nine 1 = false)
    ∧ (∀ n : Nat, max nine.clock 513 = 0 + 64 * n → BitVec.ofNat 4 n ≠ nine.cfl.station - 0 - 1)
    ∧ mutedNine.fli.txState ≠ .active ∧ (lined .stray).fli.line.quiet = false := by
  refine ⟨by decide +kernel, by decide +kernel, by decide +kernel, by decide +kernel, fun n h => ?_, by decide, by decide⟩
  have h2 : (513 : Nat) = 0 + 64 * (n : Nat) := h
  omega

/-- R9: in the worked turn order station 9's slot after Source 0 is slot 8; nothing begins in slot 7. -/
theorem test_turnSlot : (after (.turnSlot 512) nineQueued).fli.sending = some .control
    ∧ (after (.turnSlot 448) nineQueued).fli.sending = none := by decide +kernel

/-- Station 9 sending the head of its control queue, and sending an IMAGE frame. -/
def nineSending : State := { nineQueued with fli := { nineQueued.fli with sending := some .control } }
def nineImaging : State := { nineServing with fli := { nineServing.fli with sending := some (.image 0) } }

theorem nothingHeld : ∀ b, heldOf b nineSending = [] := by intro b; cases b <;> rfl

theorem witness_SendingEndsByCollisionOrCompletion :
    (nineSending.fli.sending = some .control ∧ nineSending.fli.withdrawHead = false)
    ∧ (nineImaging.fli.sending = some (.image 0) ∧ serveOf nineImaging 0 = some serving)
    ∧ (∀ x ∈ [(62, 1), (63, 2), (63, 1)], let w := { serving with slice := x.1, runEnd := x.2, onLine := true }
       let s := { nineImaging with isc := { nineImaging.isc with serve0 := some w } }
       s.fli.sending = some (.image 0) ∧ serveOf s 0 = some w ∧ w.onLine = true
        ∧ (w.slice < 63 ∨ w.sector + 1 < w.runEnd ∨ w.runEnd ≤ w.sector + 1))
    ∧ (let s := { nineSending with fli := { nineSending.fli with withdrawHead := true } }
       s.fli.sending = some .control ∧ s.fli.withdrawHead = true ∧ s.fli.queue = [offerFrom0] ∧ ∀ b, heldOf b s = [])
    ∧ nine.fli.sending = none
    ∧ (nineSending.fli.queue = [offerFrom0] ∧ (∀ b, heldOf b nineSending = [])
      ∧ offerFrom0.kind ≠ .bid ∧ offerFrom0.kind ≠ .fetch ∧ offerFrom0.kind ≠ .info)
    ∧ (bidFrame 7 5 1 ⟨0, 0, 0⟩).kind = .bid :=
  ⟨by decide, by decide +kernel, by decide +kernel, ⟨by decide, by decide, by decide +kernel, by intro b; cases b <;> rfl⟩,
    by decide,
    ⟨by decide +kernel, nothingHeld, by decide, by decide, by decide⟩, by decide⟩

/-- R12: a collision counts once and leaves the head in the queue; R13: a complete frame leaves it. -/
theorem test_collision : (after (.collision 0) nineSending).fli.collisions = 1
    ∧ (after (.collision 0) nineSending).fli.queue = [offerFrom0]
    ∧ (after (.frameComplete 0) nineSending).fli.queue = [] := by decide +kernel

theorem witness_ControlQueueTakesOrRefuses :
    ∀ x ∈ [(Kind.bid, 11), (.bid, 12), (.take, 15), (.take, 16)],
      ∃ (f : Frame) (s : State), f.kind = x.1 ∧ s.fli.txState ≠ .muted ∧ s.fli.queue.length = x.2 :=
  fun x _ => ⟨{ dest := 255, kind := x.1, subject := 0, detail := 0, payload := [] },
    { nine with fli := { nine.fli with queue := List.replicate x.2 offerFrom0 } },
    rfl, by simp [nine], by simp⟩

/-- Station 9 with `n` entries in its control queue, and a block holding refused frames. -/
def holdingFrames (n : Nat) (b : Producer) (fs : List Frame) : State :=
  setHeld b fs { nine with fli := { nine.fli with queue := List.replicate n offerFrom0 } }

/-- The CLOSED of order 7 that waits for the station's TAKE (R54), and that TAKE. -/
def waitingClosed : Frame := closedFrame 7 255 .held []
def heldTake : Frame := takeFrame 7 255 5 2

/-- Two marked titles on the shelf, the first with a free copy or none. -/
def markedShelf (free : Nat) (s : State) : State :=
  { s with shu := { s.shu with shelf := [
      (0, { title := 3, perCopy := 6, owned := 2, onShelf := 2, reserved := 2 - free, mark := true }),
      (4, { title := 5, perCopy := 6, owned := 1, onShelf := 1, reserved := 0, mark := true })] } }

theorem witness_ControlQueueTakesOrRefuses_again :
    (∀ b ∈ [Producer.au, .wq, .isc, .shu, .lu, .rti], heldOf b nine = []
      ∧ ∀ n ∈ [11, 12, 15, 16], ∀ f ∈ [bidFrame 7 5 2 ⟨0, 0, 0⟩, heldTake, closedFrame 7 255 .mailed []],
        heldOf b (holdingFrames n b [f]) = [f] ∧ (holdingFrames n b [f]).fli.queue.length = n
          ∧ (b = .shu → f.kind ≠ .available) ∧ (holdingFrames n b [f]).fli.txState ≠ .muted)
    ∧ (∀ n ∈ [14, 15], let s := { holdingFrames n .au [heldTake] with wq := { nine.wq with early := [waitingClosed] } }
      s.wq.early.filter (fun x => x.subject == heldTake.subject) = [waitingClosed] ∧ s.fli.queue.length = n
        ∧ waitingClosed.kind ≠ .bid ∧ waitingClosed.kind ≠ .available)
    ∧ (∃ x ∈ [heldTake], x.kind = .take ∧ x.subject = heldTake.subject ∧ x.detail = 255) := by decide +kernel

theorem witness_ControlQueueTakesOrRefuses_announce :
    (∀ n ∈ [15, 16], ∀ free ∈ [0, 1], let s := markedShelf free (holdingFrames n .shu [availableFrame 3 1])
      s.shu.held = [availableFrame 3 1] ∧ (availableFrame 3 1).kind = .available
        ∧ (3 : Title) = BitVec.ofNat 24 (availableFrame 3 1).subject.toNat ∧ freeCopies s 3 = free
        ∧ s.fli.queue.length = n ∧ s.pp.pause = false ∧ s.fli.txState ≠ .muted)
    ∧ (∀ n ∈ [15, 16], ∀ free ∈ [0, 1], let s := markedShelf free (holdingFrames n .shu [])
      s.pp.pause = false ∧ (∀ f ∈ s.shu.held, f.kind ≠ .available)
        ∧ s.shu.shelf = [] ++ (0, ⟨3, 6, 2, 2, 2 - free, true⟩) :: [(4, ⟨5, 6, 1, 1, 0, true⟩)]
        ∧ shelfOf s 3 = some ⟨3, 6, 2, 2, 2 - free, true⟩ ∧ s.fli.queue.length = n ∧ s.fli.txState ≠ .muted) := by
  decide +kernel

/-- R15, R54: the TAKE that AU held is sent, and the CLOSED that waited for it behind it. R137: the announcements. -/
theorem test_heldFramesGoOn :
    (offerAgain .au { holdingFrames 2 .au [heldTake] with wq := { nine.wq with early := [waitingClosed] } }).fli.queue.drop 2
      = [heldTake, waitingClosed]
    ∧ (announce (markedShelf 1 nine)).fli.queue = [availableFrame 3 1, availableFrame 5 1]
    ∧ (offerAgain .shu (markedShelf 0 (holdingFrames 0 .shu [availableFrame 3 1]))).fli.queue = [availableFrame 5 1] := by
  decide +kernel

/-! ## Offers, bids and takes -/

/-- The OFFER as heard. -/
def heardOffer : Received :=
  { source := 0, dest := 255, kind := 1, subject := 0x12A3C, detail := 0, payload := offerBytes offer }

/-- The auction entry of station 9 in the worked case, with the two heard bids. -/
def bidding : AuctionEntry :=
  { order := 0x12A3C, offer := offer, state := .bidding, cost := 922, key := 13
    flags := { images := 0, copies := 4, cartridges := 2 }, ownBid := .sent
    heard := [{ station := 5, cost := 21592, key := 9, flags := { images := 1, copies := 0, cartridges := 2 } },
              { station := 12, cost := 20213, key := 0, flags := { images := 3, copies := 0, cartridges := 2 } }]
    windowDeadline := 1280000, takeDeadline := none, rank := none }

/-- Station 9 with an auction entry. -/
def auctioning (e : AuctionEntry) : State :=
  { nineStocked with au := { nineStocked.au with entries := [(0, e)] } }

/-- The entry of station 12, which finds one heard bid before its own, and the same awaiting its take. -/
def second : AuctionEntry :=
  { bidding with
    cost := 20213, key := 0
    heard := [{ station := 5, cost := 21592, key := 9, flags := { images := 1, copies := 0, cartridges := 2 } },
              { station := 9, cost := 922, key := 13, flags := { images := 0, copies := 4, cartridges := 2 } }] }
def awaiting : AuctionEntry :=
  { second with state := .awaitingTake, takeDeadline := some 4480000, rank := some 1 }

/-- Station 9 with `n` entries in its control queue. -/
def lengthened (n : Nat) (s : State) : State := { s with fli := { s.fli with queue := List.replicate n offerFrom0 } }

/-- An offer of eight of the largest images, in nine bundles of the smallest cartridges. -/
def largest : Offer :=
  { offer with items := List.replicate 8 { kind := .audio, title := 1, version := 1, amount := 16383 } }

theorem witness_OfferIsBidOnOrForgotten : readOffer [] = none ∧ readOffer heardOffer.payload = some offer
    ∧ { nine.pp with pause := true }.pause = true ∧ mutedNine.fli.txState = .muted
    ∧ (auctionOf (auctioning bidding) heardOffer.subject).isSome
    ∧ (let c := { nine.cfl.settings with zoneMode := .inside, zoneLo := 141 }
       c.zoneMode = .inside ∧ (offer.zone < c.zoneLo ∨ c.zoneHi < offer.zone))
    ∧ (let c := { nine.cfl.settings with zoneMode := .outside, zoneLo := 140, zoneHi := 140 }
       c.zoneMode = .outside ∧ c.zoneLo ≤ offer.zone ∧ offer.zone ≤ c.zoneHi)
    ∧ 16 ≤ (List.replicate 16 bidding).length
    ∧ (let s := { nine with cfl := { nine.cfl with settings := { nine.cfl.settings with nominalClass := 0 } } }
       32 < (offerPlan s largest).length)
    ∧ withoutFreeCopy nine offer = 1 ∧ (offerPlan nine offer).length = 2
    ∧ ∀ n ∈ [11, 12], let s := lengthened n nineStocked
      s.pp.pause = false ∧ s.fli.txState ≠ .muted ∧ auctionOf s heardOffer.subject = none
        ∧ recordOf s heardOffer.subject = none ∧ s.au.entries.length < 16 ∧ s.wq.records.length < 32
        ∧ s.shu.holds.length + withoutFreeCopy s offer ≤ 128 ∧ s.wq.plan.length + (offerPlan s offer).length ≤ 128
        ∧ (offerPlan s offer).length ≤ 32 ∧ s.cfl.settings.zoneMode = .all ∧ Table.wf 16 s.au.entries = true
        ∧ s.fli.queue.length = n ∧ withFreeCopy s offer = [2] := by
  decide +kernel

/-- R20: a zone of 1000, an urgency code of 2, a length one byte short and an amount of 0 each make an OFFER malformed. -/
theorem test_malformedOffers : ∀ o ∈ [(offerBytes offer).set 4 232 |>.set 5 3, (offerBytes offer).set 6 2,
    (offerBytes offer).dropLast, (offerBytes offer).set 13 0 |>.set 14 0], readOffer o = none := by decide +kernel

/-- An unassigned planned cartridge with nothing on it. -/
def blankPlan : PlannedCart :=
  { order := 1, bundle := 1, position := 1, placements := [], link := none, written := false, loadAsked := false }

/-- Station 9 with `n` slots of the plan store taken. -/
def planning (n : Nat) : State :=
  { nineStocked with wq := { nine.wq with plan := (List.range n).map (fun i => (i, blankPlan)) } }

/-- R21: paused, and with two and with one free slot for the two planned cartridges. -/
theorem test_mayBid : mayBid { nineStocked with pp := { nine.pp with pause := true } } 7 offer = false
    ∧ mayBid (planning 126) 7 offer = true ∧ mayBid (planning 127) 7 offer = false := by decide +kernel

/-- A Present image of 10 sectors. -/
def presentEntry (title : Title) : DirEntry :=
  { name := ⟨title, 1⟩, size := 10, head := none, state := .present, useStamp := 0, complete := 10, source := none,
    fails := 0 }

/-- Station 9 with both images of the offer on hand. -/
def nineOnHand : State :=
  { nineStocked with isc := { nine.isc with directory := [(0, presentEntry 1), (1, presentEntry 2)] } }

theorem witness_BidCostSumsItsTerms :
    (∀ x ∈ [(8, 0, 4, 8188), (8, 0, 4, 8189), (8, 7, 8000, 192), (8, 8, 100, 4), (8, 2, 8000, 193)],
      let l : Layout := { closed := [], cur := List.replicate x.2.1 ⟨0, 0, 0, 1, 4⟩, next := x.2.2.1 }
      0 < 4 ∧ 4 < 8192 ∧ ((l.cur.length < 8 ∧ (x.2.2.2 + 4 - 1) / 4 * 4 ≤ 8192 - l.next)
        ∨ ((8 ≤ l.cur.length ∨ 8192 - l.next < (x.2.2.2 + 4 - 1) / 4 * 4) ∧ (x.2.2.2 + 4 - 1) / 4 * 4 ≤ 8188)
        ∨ ((8 ≤ l.cur.length ∨ 8192 - l.next < (x.2.2.2 + 4 - 1) / 4 * 4) ∧ 8188 < (x.2.2.2 + 4 - 1) / 4 * 4))) := by
  decide

/-- R27: images on hand cost no fetching. -/
theorem test_fetchTerm_onHand : (∀ i ∈ offer.items, i.kind = .audio →
    (entryOf nineOnHand i.image).map (·.state) = some .present) ∧ fetchTerm nineOnHand offer = 0 := by decide +kernel

theorem witness_PrecedenceIsByCostThenKey : (9 : Station) ≠ 12 ∧ keyOf 9 0x12A3C = 13 ∧ keyOf 12 0x12A3C = 0
    ∧ ((922, 13) : Nat × BitVec 4) ≠ (20213, 0) := by decide

/-- The ranks of the worked case. -/
theorem test_ranks : ownRank bidding = 0 ∧ ownRank second = 1 := by decide

theorem witness_HeardBidsAreRecorded :
    let f : Received := { rawFrame 2 255 4 with subject := 0x12A3C, payload := [0xFE, 0xFF, 6, 1, 0, 2] }
    f.payload = [0xFE, 0xFF, 6, 1, 0, 2] ∧ (0xFE : Byte).toNat + 256 * (0xFF : Byte).toNat ≤ 65534
      ∧ (6 : Byte).toNat = (keyOf f.source f.subject).toNat
      ∧ auctionOf (auctioning bidding) f.subject = some bidding ∧ bidding.state = .bidding
      ∧ auctionOf (auctioning awaiting) f.subject = some awaiting ∧ awaiting.state = .awaitingTake
      ∧ (0xFF : Byte).toNat + 256 * (0xFF : Byte).toNat = 65535 ∧ (7 : Byte).toNat ≠ (keyOf f.source f.subject).toNat
      ∧ auctionOf nine f.subject = none
      ∧ bidding.offer.items[0]? = some { kind := .audio, title := 1, version := 1, amount := 5000 }
      ∧ (1 : Byte).getLsbD 0 = true := by decide +kernel

theorem onlyAuHolds (e : AuctionEntry) : ∀ b, b ≠ .au → heldOf b (auctioning e) = [] := by
  intro b _
  cases b <;> rfl

theorem witness_WindowCloseAwaitsTake :
    (auctionOf (auctioning second) 0x12A3C = some second ∧ second.state = .bidding
      ∧ second.windowDeadline ≤ max (auctioning second).clock 1280000 ∧ 1 ≤ ownRank second
      ∧ (∀ b, b ≠ .au → ∀ f ∈ heldOf b (auctioning second), f.kind ≠ .bid)
      ∧ (auctioning second).fli.sending ≠ some .control)
    ∧ (let s := { auctioning second with fli := { nine.fli with
        sending := some .control, queue := [bidFrame 0x12A3C 20213 0 ⟨0, 0, 2⟩, offerFrom0] } }
       s.fli.sending = some .control
        ∧ s.fli.queue = bidFrame 0x12A3C 20213 0 ⟨0, 0, 2⟩ :: [offerFrom0])
    ∧ (∀ e, auctionOf (auctioning second) 0x12A3C = some e →
      e.state = .awaitingTake ∨ max (auctioning second).clock 1279999 < e.windowDeadline)
    ∧ (∀ e, auctionOf (auctioning awaiting) 0x12A3C = some e →
      e.state = .awaitingTake ∨ max (auctioning awaiting).clock 1280000 < e.windowDeadline) := by
  refine ⟨⟨by decide +kernel, by decide, by decide, by decide, fun b hb f hf => ?_, by decide⟩, by decide +kernel,
    fun e h => ?_, fun e h => ?_⟩
  · rw [onlyAuHolds second b hb] at hf
    cases hf
  · obtain rfl : second = e := by simpa [auctionOf, auctioning, second, bidding] using h
    exact .inr (by decide)
  · obtain rfl : awaiting = e := by simpa [auctionOf, auctioning, awaiting, second, bidding] using h
    exact .inl (by decide)

/-- The room for a take. -/
def roomy (s : State) (o : Offer) : Prop :=
  s.wq.records.length < 32 ∧ (offerPlan s o).length ≤ freeSlots s ∧ (offerPlan s o).length ≤ 32
    ∧ s.shu.holds.length + withoutFreeCopy s o ≤ 128 ∧ s.fli.txState ≠ .muted ∧ s.fli.queue.length ≤ 15

theorem witness_TakeFreesTheEntry :
    (auctionOf (auctioning bidding) 0x12A3C = some bidding ∧ bidding.state = .bidding
      ∧ bidding.windowDeadline ≤ max (auctioning bidding).clock 1280000 ∧ ownRank bidding = 0
      ∧ (∀ b, b ≠ .au → heldOf b (auctioning bidding) = [])
      ∧ (∀ f ∈ (auctioning bidding).au.held, isBidFor 0x12A3C f = true) ∧ roomy (auctioning bidding) bidding.offer)
    ∧ (auctionOf (auctioning awaiting) 0x12A3C = some awaiting ∧ awaiting.state = .awaitingTake
      ∧ awaiting.takeDeadline = some 4480000 ∧ 4480000 ≤ max (auctioning awaiting).clock 4480000
      ∧ recordOf (auctioning awaiting) 0x12A3C = none ∧ roomy (auctioning awaiting) awaiting.offer)
    ∧ (let s := { auctioning awaiting with wq := (planning 127).wq }
       auctionOf s 0x12A3C = some awaiting ∧ freeSlots s < (offerPlan s awaiting.offer).length)
    ∧ 15 < (lengthened 16 (auctioning awaiting)).fli.queue.length
    ∧ (∀ e, auctionOf (auctioning awaiting) 0x12A3C = some e →
      e.state = .bidding ∨ ∀ d, e.takeDeadline = some d → max (auctioning awaiting).clock 4479999 < d) := by
  refine ⟨⟨by decide +kernel, by decide, by decide, by decide, onlyAuHolds bidding, by decide, by
    unfold roomy; decide +kernel⟩, ⟨by decide +kernel, by decide, by decide, by decide, by decide, by
    unfold roomy; decide +kernel⟩, by decide +kernel, by decide, fun e h => .inr fun d hd => ?_⟩
  obtain rfl : awaiting = e := by simpa [auctionOf, auctioning, awaiting, second, bidding] using h
  cases hd
  decide

/-- R34, R36: at the worked case's window close station 12 awaits its take for one take wait. -/
theorem test_windowClose : ((auctionOf (after (.windowClose 1280000 0x12A3C) (auctioning second)) 0x12A3C).map
    (fun e => (e.state, e.takeDeadline))) = some (.awaitingTake, some 4480000) := by decide +kernel

/-- R35, R54: the take makes a work record with a bundle, two planned cartridges and a Planned braille item. -/
theorem test_takeDeadline :
    let u := after (.takeDeadline 4480000 0x12A3C) (auctioning awaiting)
    (recordOf u 0x12A3C).map (fun r => (r.items.map (·.state), r.bundles.length, r.precedence))
        = some ([.planned, .planned, .planned], 1, some (20213, 0))
      ∧ u.wq.plan.length = 2 ∧ (shelfOf u 3).map (·.reserved) = some 1
      ∧ takeFrame 0x12A3C 255 20213 0 ∈ u.fli.queue := by decide +kernel

/-! ## The work queue -/

/-- A record of one Planned braille item. -/
def work : WorkRecord :=
  { order := 7, patron := 70, zone := 140, urgency := .normal, takenWhole := true, precedence := some (5, 1),
    sources := [],
    items := [{ index := 0, kind := .braille, title := 3, version := 0, amount := 6, state := .planned,
                holdServed := false }],
    bundles := [], endMark := .none, gateCount := 0, mailedTags := [] }

theorem witness_RoomForItemTake :
    (let r := { work with items := work.items.map (fun i => { i with state := .held }) }
     hasRoom { nine with wq := { nine.wq with records := [r] } } 7 0 = true)
    ∧ hasRoom { nine with wq := { nine.wq with records := [work] } } 7 0 = false ∧ hasRoom nine 7 0 = true := by
  decide +kernel

/-- Station 9 with records. -/
def working (rs : List WorkRecord) : State := { nine with wq := { nine.wq with records := rs } }

/-- A TAKE of order 7 by station 8, at a cost of at most 255, and a CLOSED of it. -/
def takeOf7 (cost : Byte) : Received := { rawFrame 8 255 5 with subject := 7, detail := 255, payload := [cost, 0, 1] }
def closedOf7 (o : Byte) : Received := { rawFrame 8 255 6 with subject := 7, detail := 255, payload := [o, 0] }

theorem witness_PrecedenceIsByCostThenKey_take : takenRecordOf (working [work]) (takeOf7 5).subject = some (5, 1)
    ∧ readPrice (takeOf7 5) = some (5, 1) := by decide +kernel

theorem witness_OrdersEndByFrames :
    (takeOf7 5).payload.length = 3 ∧ (takeOf7 5).detail.toNat % 256 = 255
    ∧ readClosed (closedOf7 1) = some .mailed ∧ (closedOf7 1).detail.toNat % 256 = 255
    ∧ (∃ b, readClosed (closedOf7 b) = some .writtenOff)
    ∧ auctionOf (working [work]) 7 = none ∧ recordOf (working [work]) 7 = some work ∧ work.takenWhole = true
    ∧ work.endMark = .none ∧ work.precedence = some (5, 1) ∧ work.gateCount = 0
    ∧ (1 : Byte).toNat = (keyOf 8 7).toNat ∧ (2 : Byte).toNat ≠ (keyOf 8 7).toNat
    ∧ goesBefore (5, 1) (6, keyOf 8 7) = true ∧ goesBefore (5, 1) (5, keyOf 8 7) = false
    ∧ (∀ r ∈ [{ work with gateCount := 1 }, { work with endMark := .cancelled }, { work with takenWhole := false }],
      recordOf (working [r]) 7 = some r)
    ∧ recordOf nine 7 = none ∧ (working [work]).tablesSound
    ∧ ∀ st ∈ [BundleState.packing, .laned, .mailed], ∃ b : Bundle, b.state = st :=
  ⟨by decide, by decide, by decide +kernel, by decide, ⟨6, by decide +kernel⟩, by decide, by decide, by decide, by decide,
    by decide, by decide, by decide, by decide, by decide, by decide, by decide, by decide, by decide +kernel,
    fun st _ => ⟨{ number := 1, riders := [], state := st, containers := [] }, rfl⟩⟩

/-- R67: a CANCEL ends the record at once, for nothing of it is made; R41: the dearer TAKE is answered by the own one. -/
theorem test_ordersEnd : (hearCancel { rawFrame 0 255 2 with subject := 7 } (working [work])).wq.records = []
    ∧ (hearTake (takeOf7 6) (working [work])).fli.queue = [takeFrame 7 255 5 1]
    ∧ (hearTake (takeOf7 5) (working [work])).wq.records = [] := by decide +kernel

theorem witness_OrdersEndByFrames_malformed :
    (∀ x ∈ [((0 : Byte), (0 : Byte), 0), (7, 0, 0), (1, 1, 0), (1, 0, 3), (1, 17, 51)],
      readClosed { closedOf7 x.1 with payload := [x.1, x.2.1] ++ List.replicate x.2.2 0 } = none)
    ∧ (∀ x ∈ [((1 : Byte), (0 : Byte), 0), (6, 16, 48)],
      (readClosed { closedOf7 x.1 with payload := [x.1, x.2.1] ++ List.replicate x.2.2 0 }).isSome) := by decide +kernel

/-- An entry whose offer is braille only, and a record of one Written bundle. -/
def brailleOnly : AuctionEntry :=
  { bidding with offer := { offer with items := [{ kind := .braille, title := 3, version := 0, amount := 6 },
                                                 { kind := .braille, title := 4, version := 0, amount := 2 }] } }
def standing (st : BundleState) : WorkRecord :=
  { work with bundles := [{ number := 1, riders := [{ item := 0, pick := some .picked, copySet := none }], state := st,
                            containers := [] }] }

/-- A Waiting hold of item `i` of order 7. -/
def waitingHold (i : Nat) : Hold :=
  { order := 7, item := i, title := 3, version := 0, volumes := 6, patron := 70, zone := 140, urgency := .normal
    placed := some 9041, seq := 0, offered := none, setAside := false }

theorem witness_TakenOrdersEnterTheQueue :
    [{ work with urgency := .urgent }, work].Pairwise (fun x y => ¬ (x.urgency = .normal ∧ y.urgency = .urgent))
    ∧ (∀ e ∈ [bidding, brailleOnly], let s := auctioning e
      acceptsTake s e.offer = true ∧ s.tablesSound ∧ recordOf s e.order = none ∧ (∀ x ∈ s.wq.plan, x.2.order ≠ e.order)
        ∧ (∀ y ∈ e.offer.items.zipIdx, holdOf s e.order y.2 = none))
    ∧ (offerPlan (auctioning bidding) offer).length = 2
    ∧ (offerPlan (auctioning brailleOnly) brailleOnly.offer).length = 0
    ∧ withFreeCopy (auctioning brailleOnly) brailleOnly.offer = [0]
    ∧ recordOf nine (waitingHold 0).order = none ∧ (∀ x ∈ nine.wq.plan, x.2.order ≠ (waitingHold 0).order)
    ∧ (∀ st ∈ [BundleState.written, .packing, .mailed], recordOf (working [standing st]) 7 = some (standing st)
      ∧ (standing st).bundles.map (·.number) = List.range' 1 (standing st).bundles.length
      ∧ ((standing st).item? 0).isSome ∧ (standing st).item? 1 = none) := by decide +kernel

/-- R46: an urgent record goes behind the urgent ones and before the normal ones. -/
theorem test_enqueueUrgent : (enqueueRecord { work with order := 9, urgency := .urgent }
    [{ work with urgency := .urgent }, work]).map (·.order) = [7, 9, 7] := by decide

/-- R63: an item take adds a Written bundle for the item, its pick Pending. -/
theorem test_itemTake : (recordOf (itemTake (waitingHold 1) (working [standing .packing])) 7).map (fun r =>
    (r.items.map (·.state), r.bundles.map (fun b => (b.number, b.state)))) =
      some ([.planned, .planned], [(1, .packing), (2, .written)]) := by decide +kernel

/-! ## The image store -/

/-- A Present image of one sector with no chunk. -/
def onHandEntry : DirEntry :=
  { name := ⟨3, 1⟩, size := 1, head := none, state := .present, useStamp := 0, complete := 1, source := none, fails := 0 }

/-- The image that stream 0 fetches, its entry with `n` failures so far, and the stream. -/
def fetching (n : Nat) : DirEntry :=
  { name := ⟨1, 1⟩, size := 100, head := some 0, state := .arriving, useStamp := 0, complete := 40, source := some 2,
    fails := n }
def stream (candidates : List Station) : FetchStream :=
  { FetchStream.idle with
    state := .receiving, image := some ⟨1, 1⟩, entry := some 0, candidates := candidates, silence := some 16000000
    retryAt := some 16000000 }

/-- Station 9 with stream 0 at work on that entry. -/
def nineFetching (n : Nat) (candidates : List Station) : State :=
  { nine with isc := { nine.isc with
      directory := [(0, fetching n)], chains := [(0, { owner := 0, next := some 1 }), (1, { owner := 0, next := none })]
      fetch0 := stream candidates } }

theorem witness_FetchTimersAskAgain :
    (∀ n ∈ [0, 1, 2], ∀ cs ∈ [[2, 3], [(2 : Station)]], (fetchOf (nineFetching n cs) 0).retryAt = some 16000000
      ∧ (fetchOf (nineFetching n cs) 0).silence = some 16000000 ∧ 16000000 ≤ max (nineFetching n cs).clock 16000000
      ∧ (fetchOf (nineFetching n cs) 0).image = some ⟨1, 1⟩
      ∧ streamEntry (nineFetching n cs) 0 = some (0, fetching n)
      ∧ (nineFetching n cs).fli.txState ≠ .muted ∧ (nineFetching n cs).fli.queue.length ≤ 15)
    ∧ (fetching 1).fails + 1 < 3 ∧ 3 ≤ (fetching 2).fails + 1
    ∧ candidateAfter 2 [2, 3] = some 3 ∧ candidateAfter 2 [2] = none
    ∧ (∀ d, (fetchOf (nineFetching 0 []) 0).retryAt = some d → max (nineFetching 0 []).clock 15999999 < d)
    ∧ ∀ d, (fetchOf nine 0).silence = some d → max nine.clock 5 < d := by
  refine ⟨by decide +kernel, by decide, by decide, by decide, by decide, ?_, ?_⟩
  · rintro d h
    cases h
    decide
  · rintro d h
    cases h

/-- A work record that wants the image. -/
def wanting : WorkRecord :=
  { work with
    items := [{ index := 0, kind := .audio, title := 1, version := 1, amount := 100, state := .planned, holdServed := false }]
    bundles := [{ number := 1, riders := [], state := .waiting, containers := [] }] }

/-- Station 9 with that record, its one planned cartridge `pc` wanting the image, and a directory. -/
def wantingPlan : PlannedCart := { blankPlan with order := 7, placements := [⟨0, 0, 0, 100, 4⟩] }
def nineWanting (dir : Table DirEntry) : State :=
  { nine with
    wq := { nine.wq with records := [wanting], plan := [(0, wantingPlan)] }
    isc := { nine.isc with directory := dir } }

/-- A full directory of entries that cannot be evicted, with the entry `e` in position 0. -/
def fullDirectory (e : DirEntry) : Table DirEntry :=
  (0, e) :: (List.range 511).map (fun i => (i + 1, { fetching 0 with name := ⟨BitVec.ofNat 24 (i + 10), 1⟩ }))

/-- Stream 0 waits for chunks, and for an entry. -/
def nineWaiting : State :=
  { nineFetching 0 [] with isc := { (nineFetching 0 []).isc with fetch0 := { stream [2] with state := .waiting } } }
def nineEntryless : State :=
  { nineWanting [] with isc := { nine.isc with
      fetch0 := { FetchStream.idle with state := .waiting, image := some ⟨1, 1⟩ } } }

theorem witness_FetchWalk :
    (wantedImages (nineWanting []) = [⟨1, 1⟩] ∧ (fetchOf (nineWanting []) 0).state = .idle
      ∧ (nineWanting []).fli.txState ≠ .muted ∧ (fetchOf (nineWanting []) (otherStream 0)).image ≠ some ⟨1, 1⟩)
    ∧ (fetchOf (nineFetching 0 []) 0).state ≠ .idle ∧ wantedImages nine = []
    ∧ ((nineWanting []).tablesSound ∧ (nineWanting []).fli.queue.length ≤ 15
      ∧ (candidateList (nineWanting []) ⟨1, 1⟩).head? = some 0 ∧ dirIndex (nineWanting []) ⟨1, 1⟩ = none
      ∧ Table.firstFree 512 (nineWanting []).isc.directory = some 0)
    ∧ dirIndex (nineWanting [(4, { fetching 1 with state := .damaged })]) ⟨1, 1⟩ = some 4 := by decide +kernel

theorem witness_FetchWalk_full :
    (∀ st ∈ [ImageState.present, .arriving], let s := nineWanting (fullDirectory { onHandEntry with state := st })
       dirIndex s ⟨1, 1⟩ = none ∧ Table.firstFree 512 s.isc.directory = none
        ∧ evictees s = if st = .present then [0] else []) := by decide +kernel

theorem witness_FetchWalk_waiting :
    ((fetchOf nineWaiting 0).state = .waiting ∧ streamEntry nineWaiting 0 = some (0, fetching 0)
      ∧ (fetchOf nineWaiting 0).image = some ⟨1, 1⟩ ∧ (allocate 0 (ceilDiv 100 64) nineWaiting).isSome
      ∧ (allocate 0 1025 nineWaiting).isNone)
    ∧ ((fetchOf nineEntryless 0).state = .waiting ∧ (fetchOf nineEntryless 0).image = some ⟨1, 1⟩
      ∧ streamEntry nineEntryless 0 = none)
    ∧ nineWaiting.tablesSound ∧ dirAt nineWaiting 0 = some (fetching 0) ∧ (fetching 0).state ≠ .present
    ∧ nineWaiting.isc.chains.length ≤ nineWaiting.cfl.settings.storeChunks ∧ freeChunks nineWaiting = 1022 := by
  decide +kernel

theorem witness_FetchWalk_wants :
    ((fetchOf (nineFetching 0 []) 0).image = some ⟨1, 1⟩ ∧ placementPins (nineFetching 0 []) ⟨1, 1⟩ = 0)
    ∧ (∀ n, (fetchOf nine 0).image = some n → placementPins nine n ≠ 0)
    ∧ (nineWanting [(4, { fetching 1 with state := .damaged })]).tablesSound
    ∧ plansInOrder (nineWanting []) = [] ++ (0, wantingPlan) :: []
    ∧ (∃ q ∈ wantingPlan.placements, placementImage (nineWanting []) wantingPlan q = some ⟨1, 1⟩)
    ∧ (∀ e ∈ plansInOrder (nineWanting []), ∀ q ∈ e.2.placements, placementImage (nineWanting []) e.2 q ≠ some ⟨9, 1⟩)
    ∧ recordOf (nineWanting []) wantingPlan.order = some wanting := by
  refine ⟨by decide +kernel, fun n h => (by cases h), by decide +kernel, by decide +kernel, by decide +kernel,
    by decide +kernel, by decide +kernel⟩

/-- R77: the stations that flagged the image are asked in the order heard, and station 0 last. R83: a stream whose image
no one wants any more is stopped. -/
theorem test_candidates :
    (let s := nineWanting []
     candidateList { s with wq := { s.wq with records := [{ wanting with sources := [(5, 1), (0, 1), (3, 2), (2, 3)] }] } }
       ⟨1, 1⟩ = [5, 2, 0])
    ∧ (settleStore (nineFetching 0 [2])).isc.fetch0 = .idle ∧ (settleStore (nineFetching 0 [2])).isc.directory = [] := by
  decide +kernel

/-- R76, R78: an Idle stream takes up the wanted image and asks station 0 for its first sectors. -/
theorem test_walkIdle : (walkIdle (nineWanting []) 0).fli.queue = [fetchFrame 0 ⟨1, 1⟩ 0 64]
    ∧ (dirAt (walkIdle (nineWanting []) 0) 0).map (·.state) = some .arriving := by decide +kernel

/-- An INFO or IMAGE of station 2 for the image, with a Detail and a payload. -/
def fromSource (detail : Nat) (payload : List Byte) : Received :=
  { rawFrame 2 9 12 with subject := BitVec.ofNat 32 (imageCode ⟨1, 1⟩), detail := BitVec.ofNat 32 detail, payload := payload }

/-- The stream with the run from sector 40 to 100 open, slice `k` of sector 40 being expected. -/
def receiving (k : Nat) : FetchStream := { stream [2, 3] with runStart := 40, runEnd := 100, sector := 40, slice := k }

/-- Station 9 with that stream and the entry, in a given state and of a given size. -/
def nineAt (st : FetchState) (k size : Nat) : State :=
  { nineFetching 0 [2, 3] with
    wq := (nineWanting []).wq
    isc := { (nineFetching 0 [2, 3]).isc with
      directory := [(0, { fetching 0 with size := size, head := if size = 0 then none else some 0 })]
      fetch0 := { receiving k with state := st, askStart := 40, askCount := 60 } } }

/-- The Detail of an INFO, and of an IMAGE frame. -/
def infoDetail (size status : Nat) : Nat := size + 65536 * status
def imageDetail (sector slice last : Nat) : Nat := sector + 65536 * slice + 16777216 * last

theorem witness_NumberClashMutes_fetching : (nineFetching 0 []).cfl.phase = .running
    ∧ (nineFetching 0 []).fli.ownEndDue = false ∧ (nineFetching 0 []).fli.txState ≠ .muted
    ∧ (fetchOf (nineFetching 0 []) 0).entry = some 0 := by decide

theorem witness_InfoAndImageFeedTheStream :
    (∀ st ∈ [FetchState.asking, .receiving], ∀ size ∈ [0, 100], let s := nineAt st 5 size
      (fetchOf s 0).state = st ∧ streamEntry s 0 = some (0, { fetching 0 with
          size := size, head := if size = 0 then none else some 0 })
        ∧ (fetchOf s 0).image = some (imageNameOf (fromSource 0 []).subject.toNat)
        ∧ (fetching 0).source = some (fromSource 0 []).source)
    ∧ (∀ x ∈ [1, 2, 3, 4], detailByte (fromSource (infoDetail 0 x) []) 2 = x)
    ∧ (∀ n ∈ [0, 1, 100, 16383, 16384], detailByte (fromSource (infoDetail n 0) []) 2 = 0
      ∧ detailLow (fromSource (infoDetail n 0) []) = n)
    ∧ (let h := reportSize ⟨1, 1⟩ 100 { nineAt .asking 0 0 with isc := { (nineAt .asking 0 0).isc with
         directory := Table.change 0 (fun e => { e with size := 100 }) (nineAt .asking 0 0).isc.directory } }
       placementPins h ⟨1, 1⟩ ≠ 0 ∧ ceilDiv 100 64 ≤ h.cfl.settings.storeChunks ∧ (allocate 0 (ceilDiv 100 64) h).isSome)
    ∧ placementPins (nineFetching 0 []) ⟨1, 1⟩ = 0
    ∧ (∀ x ∈ [(39, 5), (100, 5), (40, 64)], let f := fromSource (imageDetail x.1 x.2 0) []
      detailLow f < 40 ∨ 100 ≤ detailLow f ∨ 63 < detailByte f 2)
    ∧ (∀ x ∈ [(40, 5, 0), (99, 63, 1)], let f := fromSource (imageDetail x.1 x.2.1 x.2.2) []
      40 ≤ detailLow f ∧ detailLow f < 100 ∧ detailByte f 2 ≤ 63 ∧ detailByte f 3 = x.2.2)
    ∧ (let f := fromSource (imageDetail 40 5 0) (List.replicate 1024 0)
       detailLow f = (receiving 5).sector ∧ detailByte f 2 = (receiving 5).slice ∧ (receiving 5).buffer = none
        ∧ f.payload.length = 1024)
    ∧ (fetchOf nine 0).image ≠ some (imageNameOf (fromSource 0 []).subject.toNat)
    ∧ candidateAfter 2 [2, 3] = some 3 ∧ candidateAfter 3 [2, 3] = none := by decide +kernel

/-- A last slice with its CRC, and with another. -/
theorem witness_InfoAndImageFeedTheStream_check (c : Check32) : ∃ data : List Byte, data.length = 1028
    ∧ BitVec.ofNat 32 (numAt data 1024 4) = c ∧ data.take 1024 = List.replicate 1024 0 := by
  refine ⟨List.replicate 1024 0 ++ bytesLE 4 c.toNat,
    by rw [List.length_append, List.length_replicate]; rfl, ?_, List.take_left' List.length_replicate⟩
  have h := c.isLt
  have d : (List.replicate 1024 (0 : Byte) ++ bytesLE 4 c.toNat).drop 1024 = bytesLE 4 c.toNat :=
    List.drop_left' List.length_replicate
  apply BitVec.eq_of_toNat_eq
  rw [numAt, bytesAt, d]
  simp only [bytesLE, List.take, natLE, BitVec.toNat_ofNat]
  omega

/-- R79: INFO Present opens the run; R81: the expected slice enters the receive buffer, and another does not. -/
theorem test_infoAndImage : (fetchOf (hearInfo (fromSource (infoDetail 100 0) []) (nineAt .asking 0 100)) 0).state = .receiving
    ∧ ((fetchOf (hearImage (fromSource (imageDetail 40 5 0) (List.replicate 1024 7)) (nineAt .receiving 5 100)) 0).buffer.map
      (fun b => (b.sector, b.slice))) = some (40, 5)
    ∧ (fetchOf (hearImage (fromSource (imageDetail 40 6 0) (List.replicate 1024 7)) (nineAt .receiving 5 100)) 0).buffer
      = none := by decide +kernel

/-- R79: after the third silence on a sector the next candidate is asked for the rest, at most 64 sectors. -/
theorem test_silenceTurnsToTheNextCandidate :
    (after (.fetchSilenceTimeout 16000000 0) { nineFetching 2 [2, 3] with
        wq := (nineWanting []).wq }).fli.queue
      = [fetchFrame 3 ⟨1, 1⟩ 40 60] := by decide +kernel

/-- A slice in the receive buffer: an inner one, and the last of a sector with its check value. -/
def inner : RxSlice := { sector := 40, slice := 5, data := [1, 2, 3], check := none }
def last (sector : Nat) : RxSlice := { sector := sector, slice := 63, data := [1, 2, 3], check := some 77 }

/-- Stream 0's slice is being written. -/
def nineWriting (b : RxSlice) : State :=
  { nineFetching 0 [2] with isc := { (nineFetching 0 [2]).isc with
      port := some (.fetch 0), fetch0 := { stream [2] with buffer := some b } } }

theorem witness_WrittenSlicesReachTheStore :
    (∀ x ∈ [(inner, 40), (last 40, 40), (last 99, 99)], (nineWriting x.1).isc.port = some (.fetch 0)
      ∧ (fetchOf (nineWriting x.1) 0).buffer = some x.1 ∧ streamEntry (nineWriting x.1) 0 = some (0, fetching 0)
      ∧ physical (nineWriting x.1) (fetching 0) x.1.sector = some x.2 ∧ (nineWriting x.1).storeCanonical)
    ∧ inner.check = none ∧ (last 40).check = some 77 ∧ (last 40).sector + 1 ≠ (fetching 0).size
    ∧ (last 99).sector + 1 = (fetching 0).size ∧ nine.isc.port ≠ some (.fetch 0) := by decide +kernel

/-- R81: the last slice of the image makes its entry Present, and its bytes stand at their place of chunk 1. -/
theorem test_lastSlice : let u := after (.fetchSliceWritten 0 0) (nineWriting (last 99))
    (dirAt u 0).map (fun e => (e.state, e.complete, e.useStamp)) = some (.present, 100, 1)
      ∧ u.isc.store.read (65536 * 99 + 1024 * 63 + 2) = 3 ∧ u.isc.crcArea = [(99, 77)] := by decide +kernel

/-- The last slice of a run is written, the stream's image still having sectors left. -/
def runEnding : State :=
  let s := nineWriting (last 40)
  { s with
    wq := (nineWanting []).wq
    isc := { s.isc with fetch0 := { stream [2] with buffer := some (last 40), runEnd := 41 } } }

theorem witness_WrittenSlicesReachTheStore_runEnd :
    (fetchOf runEnding 0).buffer = some (last 40) ∧ (fetchOf runEnding 0).state = .receiving
    ∧ (last 40).sector + 1 = (fetchOf runEnding 0).runEnd ∧ (last 40).sector + 1 ≠ (fetching 0).size
    ∧ (fetchOf runEnding 0).image = some ⟨1, 1⟩ ∧ runEnding.fli.txState ≠ .muted ∧ runEnding.fli.queue.length ≤ 15
    ∧ runEnding.isc.port = some (.fetch 0) ∧ runEnding.storeCanonical := by decide +kernel

/-- R78, R81: at the end of its run the stream asks the same source for the rest. -/
theorem test_runEnd : (after (.fetchSliceWritten 0 0) runEnding).fli.queue = [fetchFrame 2 ⟨1, 1⟩ 41 59] := by decide +kernel

/-- A Present image of one sector in chunk 0, and station 9 holding it. -/
def onHand : DirEntry :=
  { name := ⟨3, 1⟩, size := 1, head := some 0, state := .present, useStamp := 0, complete := 1, source := none, fails := 0 }
def nineHolding : State :=
  { nine with isc := { nine.isc with
      directory := [(0, onHand)], chains := [(0, { owner := 0, next := none })], serve0 := some serving } }

/-- A FETCH of station 2 for an image of title 3. -/
def fetchOf3 (version start count : Nat) : Received :=
  { rawFrame 2 9 11 with subject := BitVec.ofNat 32 (imageCode ⟨3, BitVec.ofNat 8 version⟩)
                         detail := BitVec.ofNat 32 (start + 65536 * count) }

theorem witness_FetchAnswered :
    (∀ n ∈ [0, 65], detailByte (fetchOf3 1 0 n) 2 = n) ∧ (rawFrame 2 255 11).dest ≠ nine.cfl.station.toNat
    ∧ (∀ n ∈ [1, 64], ∀ start ∈ [0, 1], (fetchOf3 1 start n).dest = nine.cfl.station.toNat
      ∧ 1 ≤ detailByte (fetchOf3 1 start n) 2 ∧ detailByte (fetchOf3 1 start n) 2 ≤ 64
      ∧ detailLow (fetchOf3 1 start n) = start)
    ∧ (∀ e ∈ nine.isc.directory, e.2.state = .present → e.2.name.title ≠ 3)
    ∧ (imageNameOf (fetchOf3 2 0 1).subject.toNat = ⟨3, 2⟩ ∧ ∀ e ∈ nineHolding.isc.directory, e.2.name ≠ ⟨3, 2⟩)
    ∧ ((0, onHand) ∈ nineHolding.isc.directory ∧ onHand.state = .present ∧ onHand.name = ⟨3, 1⟩ ∧ onHand.size = 1
      ∧ ∀ d ∈ nineHolding.isc.directory, d.2.state = .present → d.2.name = ⟨3, 1⟩ → d = (0, onHand))
    ∧ (nine.isc.serve0 = none ∧ nineHolding.isc.serve0 = some serving ∧ nineHolding.isc.serve1 = none)
    ∧ (infoFrame 2 ⟨3, 1⟩ 1 .present).dest = destOf serving.requester
    ∧ (infoFrame 2 ⟨3, 1⟩ 1 .present).subject = BitVec.ofNat 32 (imageCode serving.name) := by decide +kernel

/-- R84: a FETCH for an image on hand opens a stream and is answered Present; one for another title Absent. -/
theorem test_hearFetch : let u := hearFetch (fetchOf3 1 0 64) nineHolding
    u.fli.queue = [infoFrame 2 ⟨3, 1⟩ 1 .present] ∧ (serveOf u 0).map (fun v => (v.sector, v.runEnd, v.infoSent)) =
      some (0, 1, false) := by decide +kernel

/-- The same with the store port granted to a user. -/
def ported (u : PortUser) : State := { nineHolding with isc := { nineHolding.isc with port := some u } }

theorem witness_FetchAnswered_port : (ported (.serve 0)).isc.port = some (.serve 0)
    ∧ (serveOf (ported (.serve 0)) 0).map (fun v => (v.requester, v.name.title)) = some (2, 3)
    ∧ (fetchOf3 1 0 64).source = 2 ∧ (imageNameOf (fetchOf3 1 0 64).subject.toNat).title = 3 := by decide +kernel

/-- R84, R88: a stream that a FETCH ends gives up the store port, and a waiting fetch write goes before the new stream. -/
theorem test_endedStreamLeavesThePort :
    let s := ported (.serve 0)
    let u := after (.frameEnd 0 (heard 2 (fetchFrame 9 ⟨3, 1⟩ 0 64)))
      { s with wq := (nineWanting []).wq, isc := { s.isc with
          serve0 := some { serving with ready := none }, fetch1 := { stream [2] with entry := none, buffer := some inner } } }
    (serveOf u 0).isSome = true ∧ u.isc.port = some (.fetch 1) := by decide +kernel

/-- The check value of a sector of zeros, and station 9 with it, or another value, in the CRC area and a user at the
port. -/
def zeroCheck : Check32 := crc32 (Memory.readAll [] 0 65536)
def checked (c : Check32) (u : PortUser) : State :=
  { ported u with
    isc := { (ported u).isc with crcArea := [(0, c)], scrubRead := some { sector := 0, entry := 0, discard := false } }
    de := { nine.de with writeSlot := some ⟨0, .filling 0 0⟩ } }

/-- No fading. -/
def sound : StoreFade := { bytes := [], checks := [] }

theorem not_self (c : Check32) : c ≠ ~~~c := by
  intro h
  have h2 := congrArg (fun x => x.getLsbD 0) h
  simp at h2

theorem witness_StoreReadsAreServedAndChecked_reads :
    ((ported (.serve 0)).isc.port = some (.serve 0) ∧ serveOf (ported (.serve 0)) 0 = some serving
      ∧ dirAt (ported (.serve 0)) serving.entry = some onHand
      ∧ physical (ported (.serve 0)) onHand serving.sector = some 0)
    ∧ nine.isc.port ≠ some (.serve 0)
    ∧ (nineHolding.cfl.settings.scrubInterval ≠ 0 ∧ nineHolding.isc.scrubNext ≤ max nineHolding.clock 160000000
      ∧ nineHolding.isc.scrubRead = none ∧ nextScrub nineHolding = some (0, 0) ∧ nextScrub nine = none)
    ∧ (checked 0 .scrub).isc.scrubRead ≠ none
    ∧ max nine.clock 159999999 < nine.isc.scrubNext
    ∧ { nine.cfl.settings with scrubInterval := 0 }.scrubInterval = 0 := by decide +kernel

theorem witness_StoreReadsAreServedAndChecked : ∀ u ∈ [PortUser.scrub, .duplicator],
    (∀ c, (checked c u).isc.port = some u ∧ (checked c u).de.writeSlot = some ⟨0, .filling 0 0⟩
      ∧ (checked c u).isc.scrubRead = some { sector := 0, entry := 0, discard := false }
      ∧ (dirAt (checked c u) 0).map (·.state) = some .present)
    ∧ crc32 (Memory.readAll (applyFade sound ((checked zeroCheck u).at 0)).isc.store (65536 * 0) 65536)
        = checkOf (applyFade sound ((checked zeroCheck u).at 0)) 0
    ∧ crc32 (Memory.readAll (applyFade sound ((checked (~~~zeroCheck) u).at 0)).isc.store (65536 * 0) 65536)
        ≠ checkOf (applyFade sound ((checked (~~~zeroCheck) u).at 0)) 0 := by
  intro u _
  have store : ∀ c, (applyFade sound ((checked c u).at 0)).isc.store = [] := fun _ => rfl
  have check : ∀ c, checkOf (applyFade sound ((checked c u).at 0)) 0 = c := fun c => by
    simp [checkOf, applyFade, sound, State.at, checked, Table.at?]
  refine ⟨fun c => ⟨rfl, rfl, rfl, rfl⟩, ?_, ?_⟩
  · rw [store, check, Nat.mul_zero, zeroCheck]
  · rw [store, check, Nat.mul_zero]
    exact not_self _

/-! ## The duplicator rack and the pool -/

/-- The header of cartridge 100, its socket entry while it does `op`, and its pool record in state `st`. -/
def header : Header := { serial := 100, capClass := 1, e := 2, width := 8, access := 0, wear := 7, erased := true }
def busy (op : Op) (attempt : Nat) (deadline : Option Moment) (stale : Bool) : SocketEntry :=
  { state := .busy, serial := some 100, header := some header, op := some op, attempt := attempt, deadline := deadline
    stale := stale, silent := false, dirCheck := 0 }
def pooled (st : CartState) : CartRecord :=
  { serial := 100, capClass := 1, e := 2, wear := 7, state := st, socket := some 3, link := some 0, tag := none, stamp := 0 }

/-- A planned cartridge with one placement of one sector on cartridge 100. -/
def planned : PlannedCart :=
  { order := 7, bundle := 1, position := 1, placements := [⟨0, 0, 0, 1, 4⟩], link := some 100, written := false
    loadAsked := false }

/-- Its work record. -/
def writing : WorkRecord :=
  { work with
    items := [{ index := 0, kind := .audio, title := 3, version := 1, amount := 1, state := .planned, holdServed := false }]
    bundles := [{ number := 1, riders := [], state := .producing, containers := [] }] }

/-- Station 9 with that cartridge in socket 3, a grant and the plan that its record is linked to. -/
def racked (e : SocketEntry) (g : Option Grant) (st : CartState) : State :=
  { nineHolding with
    wq := { nine.wq with records := [writing], plan := [(0, planned)] }
    de := { nine.de with sockets := [(3, e)], grant := g }
    cp := { records := [(0, pooled st)], stamp := 0 } }

/-- A grant of socket 3 to move the identity area. -/
def granted (op : BusOp) (limit : Moment) : Option Grant := some ⟨3, op, some limit, ⟨.identity, 1, 1⟩⟩

/-- R58 to R61: the item's image, of one sector on a linked planned cartridge, is reported at another size. -/
def sized : State := racked (busy .headerWrite 1 none false) none .assigned
def reported (size : Nat) (s : State) : State :=
  changeRecord 7 (WorkRecord.changeItem 0 (fun i => { i with amount := size })) s
def unlinkedPlan (s : State) : State :=
  { s with wq := { s.wq with plan := s.wq.plan.map (fun e => (e.1, { e.2 with link := none })) } }

/-- A plan store with no slot free for a further planned cartridge. -/
def crowded (s : State) : State :=
  { s with wq := { s.wq with plan := s.wq.plan ++ (List.range 127).map (fun i => (i + 1, { blankPlan with order := 8 })) } }

theorem witness_ResizedAndFailedItems :
    (sized.tablesSound ∧ recordOf sized 7 = some writing ∧ (writing.item? 0).map (fun i => (i.state, i.amount)) =
        some (.planned, 1))
    ∧ (∃ e ∈ sized.wq.plan, e.2.order = 7 ∧ (e.2.written = true ∨ e.2.link ≠ none)
        ∧ ∃ p ∈ e.2.placements, p.item = 0 ∧ 0 < p.imageStart + p.length)
    ∧ (∀ e ∈ sized.wq.plan, ∀ p ∈ e.2.placements, p.item = 0 → p.imageStart + p.length ≤ 8190)
    ∧ (∀ s ∈ [reported 8190 sized, reported 8190 (unlinkedPlan sized)],
       s.tablesSound ∧ (recordOf s 7).isSome ∧ (affectedBundles s writing 0).length = 1)
    ∧ (crowded (reported 8190 sized)).tablesSound ∧ (crowded (reported 8190 sized)).wq.plan.length = 128
    ∧ (fillPlan (nominalK sized) (nominalG sized) (replanRuns writing 0 8190 [] sized.wq.plan)).length = 2
    ∧ (∃ p ∈ planned.placements, p.item = 0) ∧ (∀ p ∈ planned.placements, p.item ≠ 1)
    ∧ sized.pp.events.length < 32 ∧ sized.fli.txState ≠ .muted ∧ sized.fli.queue.length ≤ 15
    ∧ recordOf nine 7 = none :=
  ⟨by decide +kernel, by decide, by decide, by decide +kernel, by decide +kernel, by decide +kernel, by decide +kernel,
    by decide, by decide, by decide, by decide, by decide, by decide⟩

/-- R61: the item fails with its CLOSED, its planned cartridge goes and the Assigned cartridge is Ready again. -/
theorem test_failItem : let u := failItem 7 0 sized
    u.wq.plan = [] ∧ (cartOf u 100).map (fun r => (r.state, r.link)) = some (.ready, none)
      ∧ u.fli.queue.head? = some (closedFrame 7 0 .failed []) := by decide +kernel

/-- A record whose bundles are all Mailed, of several ends. -/
def mailed (mark : EndMark) (whole : Bool) (st : ItemState) : WorkRecord :=
  { standing .mailed with
    endMark := mark, takenWhole := whole
    items := work.items.map (fun i => { i with state := st }) }

theorem witness_BundlesGoTheirWay :
    (∀ st ∈ [BundleState.waiting, .producing, .written], ∀ conds ∈ [[], [.written], [.written, .unassigned], [.linked],
      [Condition.unassigned]], ∃ b : Bundle, b.state = st
        ∧ (conds = [] ∨ (∀ c ∈ conds, c = .written) ∨ (∀ c ∈ conds, c = .unassigned)
          ∨ ((∃ c ∈ conds, c ≠ .unassigned) ∧ ∃ c ∈ conds, c ≠ .written)))
    ∧ (recordOf sized 7 = some writing ∧ (writing.bundle? 1).isSome ∧ sized.tablesSound
      ∧ (cartOf sized 100).map (·.link) = some (some 0))
    ∧ (recordOf (working [standing .laned]) 7 = some (standing .laned) ∧ ((standing .laned).bundle? 1).isSome
      ∧ (working [standing .laned]).tablesSound)
    ∧ (∀ m ∈ [EndMark.none, .cancelled, .abandoned], ∀ w ∈ [true, false], ∀ st ∈ [ItemState.held, .mailed, .failed],
      recordOf (working [mailed m w st]) 7 = some (mailed m w st) ∧ (∀ b ∈ (mailed m w st).bundles, b.state = .mailed)
        ∧ Table.wf 128 (working [mailed m w st]).wq.plan = true ∧ (working [mailed m w st]).au.held = [])
    ∧ (let s := setHeld .au [heldTake] (working [mailed .none true .held])
       (∃ g ∈ s.au.held, g.kind = .take ∧ g.subject = 7 ∧ g.detail = 255)
        ∧ ∀ i ∈ (mailed .none true .held).items, i.state = .held)
    ∧ (∃ b ∈ (standing .laned).bundles, b.state ≠ .mailed) ∧ recordOf nine 7 = none :=
  ⟨fun st _ conds hc => ⟨{ number := 1, riders := [], state := st, containers := [] }, rfl, by revert conds; decide⟩,
    by decide +kernel, by decide +kernel, by decide +kernel, by decide +kernel, by decide, by decide⟩

theorem witness_BundlesGoTheirWay_renewed :
    (let b : Bundle := { number := 1, riders := [⟨1, none, none⟩, ⟨0, none, none⟩], state := .waiting, containers := [] }
     b.state ≠ .written ∧ (b.renew []).state = .written ∧ (b.renew [.unassigned]).state ≠ .written)
    ∧ (working [standing .laned]).wq.records = [] ++ standing .laned :: []
    ∧ recordOf (working [standing .laned]) 7 = some (standing .laned) ∧ recordOf nine 7 = none := by decide +kernel

/-- R66: a bundle without cartridges becomes Written, and its two picks are listed in item order. -/
theorem test_pickLists : (settleWork (working [{ standing .waiting with bundles := [{
      number := 1, riders := [⟨1, none, none⟩, ⟨0, none, none⟩], state := .waiting, containers := [] }] }])).pp.events
    = [.pickList 0 0, .pickList 0 1] := by decide +kernel

/-- R54: while AU holds its TAKE the CLOSED of a record complete at its creation waits. -/
theorem test_earlyClosed : (completeIfDone (setHeld .au [heldTake] (working [mailed .none true .held])) 7).wq.early
    = [waitingClosed] := by decide +kernel

/-- R66: a whole order whose item was mailed closes as Mailed. -/
theorem test_completeIfDone : (completeIfDone (working [mailed .none true .mailed]) 7).fli.queue
    = [closedFrame 7 255 .mailed []] := by decide +kernel

/-- R199, R127: a station with that cartridge and the marker of a start for station 1. -/
def marked (st : CartState) : State := { racked (busy .headerWrite 1 none false) none st with cfl := State.reset.cfl }

theorem witness_WarmResetGoesByTheMarker_records :
    (∀ st ∈ [CartState.assigned, .writing, .verifying, .erasing, .ready, .written, .packed],
      (marked st).cfl.marker = markerOf (inputs 1) ∧ (marked st).tablesSound
        ∧ (cartOf (marked st) 100).map (·.state) = some st)
    ∧ (marked .writing).wq.plan.at? 0 = some planned ∧ (dirAt (marked .writing) 0).map (·.state) = some .present := by
  decide +kernel

/-- R127, R69: the cartridge being written at a warm reset is Dirty, and its planned cartridge unassigned. -/
theorem test_warmReset : let u := after (.warmReset 0 (inputs 1)) (marked .writing)
    (cartOf u 100).map (fun r => (r.state, r.link)) = some (.dirty, none) ∧ u.wq.plan.map (fun e => e.2.link) = [none]
      ∧ (dirAt u 0).isSome := by decide +kernel

theorem witness_WarmResetGoesByTheMarker_blocks : nine.rti.chute = .idle ∧ (inputs 1).chute = false
    ∧ { inputs 1 with chute := true }.chute = true ∧ { nine.rti with chute := .routing }.chute ≠ .idle
    ∧ (inputs 1).present = [] ∧ { inputs 1 with present := [3] }.present ≠ []
    ∧ socketOf nine 3 = none ∧ { inputs 1 with gate := true }.gate = true := by decide

/-- R173, R113: a start repeats the list of a pick that was Pending, and with no cartridge in the rack FLI joins at once. -/
theorem test_startBlocks : let u := startBlocks (inputs 1) (working [{ standing .written with
      bundles := (standing .written).bundles.map (fun b => { b with riders := [⟨0, some .pending, none⟩] }) }])
    u.pp.events = [.pickList 0 0] ∧ u.cfl.phase = .running ∧ u.fli.joinFrom = some nine.clock := by decide +kernel

/-- The image of the cartridge in socket 3 is read by scrub, or for the write slot. -/
def damaging (st : CartState) (u : PortUser) : State :=
  let s := racked (busy (.sectorWrite 0 0) 1 none false) none st
  { s with
    isc := { (checked 0 u).isc with serve0 := s.isc.serve0 }
    de := { s.de with writeSlot := some ⟨3, .filling 0 0⟩ } }

theorem witness_StoreReadsAreServedAndChecked_damage : ∀ u ∈ [PortUser.scrub, .duplicator],
    ∀ st ∈ [CartState.writing, .verifying, .assigned], let s := damaging st u
      dirAt s 0 = some onHand ∧ onHand.state = .present ∧ s.isc.port = some u ∧ cartOf s 100 = some (pooled st)
        ∧ s.makesFrom onHand.name 100 ∧ (∀ d ∈ s.cp.records, d.2.socket = some 3 → d.2.serial = 100)
        ∧ (socketOf s 3).isSome ∧ serveOf s 0 = some serving ∧ serving.entry = 0 ∧ s.pp.events.length < 32
        ∧ s.fli.txState ≠ .muted ∧ s.fli.queue.length + 1 ≤ 16 := by
  unfold State.makesFrom
  decide +kernel

/-- R87, R107: a cartridge being verified from a Damaged image is stopped and erased. -/
theorem test_damage : let u := damage 0 (damaging .verifying .scrub)
    (cartOf u 100).map (fun r => (r.state, r.link)) = some (.erasing, none) ∧ u.isc.serve0 = none
      ∧ u.fli.queue.length = 1 := by decide +kernel

/-- Socket 3 holds a full write slot, or a filling one. -/
def slotted (f : SlotFill) (s : State) : State := { s with de := { s.de with writeSlot := some ⟨3, f⟩ } }

theorem witness_PortAndBusAreGranted :
    (portWants (nineWriting inner) (.fetch 0) = true ∧ (nineWriting inner).isc.port = some (.fetch 0))
    ∧ (∀ u, (checked 0 .duplicator).isc.port = some u → u = .duplicator)
    ∧ portWants (checked 0 .duplicator) .duplicator = true ∧ portWants (checked 0 .duplicator) .scrub = true
    ∧ (∀ x ∈ [(Op.headerWrite, true), (.directoryWrite, true), (.sectorWrite 0 0, true), (.eraseHeader false, true),
        (.erase false 0, false), (.verifyDirectory, false), (.verifySector 0 0, false)],
      let s := racked (busy x.1 1 none false) none .writing
      socketOf s 3 = some (busy x.1 1 none false) ∧ (requestOf (slotted (.full []) s) 3).isSome
        ∧ (requestOf s 3).isSome = !x.2
        ∧ s.de.grant = none ∧ (3 : SocketNo) = s.de.lastGranted + 1 + Fin.ofNat 8 3
        ∧ ∀ m ∈ List.range 3, requestOf s (s.de.lastGranted + 1 + Fin.ofNat 8 m) = none)
    ∧ planIn (racked (busy (.sectorWrite 0 0) 1 none false) none .writing) 3 = some planned
    ∧ socketOf nine 3 = none ∧ (racked (busy .headerWrite 1 none false) (granted .write 5) .writing).de.grant ≠ none := by
  refine ⟨by decide +kernel, fun u h => (by cases h; rfl), by decide +kernel, by decide +kernel, by decide +kernel,
    by decide +kernel, by decide, by decide⟩

/-- The port leaves a sector read for a fetch write while a sector waits behind the last slice. -/
def leavingPort : State :=
  let s := checked 0 .duplicator
  { s with
    isc := { s.isc with fetch0 := { stream [2] with buffer := some inner } }
    de := { s.de with readSlot := some ⟨5, [1], true⟩ } }

theorem witness_PortAndBusAreGranted_leaving : leavingPort.isc.port = some .duplicator
    ∧ portWants leavingPort (.fetch 0) = true ∧ (grantPort leavingPort).isc.port = some (.fetch 0)
    ∧ (∀ x, leavingPort.isc.port = some (.fetch x) ∨ leavingPort.isc.port = some (.serve x) → ∀ u,
        leavingPort.isc.port = some u → portWants leavingPort u = false) := by
  refine ⟨by decide, by decide +kernel, by decide +kernel, fun x h => ?_⟩
  rcases h with h | h <;> cases h

/-- R88: the slice that went before the check is over when the port goes to another user. -/
theorem test_portLeaves : (grantPort leavingPort).de.readSlot = some ⟨5, [1], false⟩ := by decide +kernel

/-- R95, R98: the erase command of group 5 is granted with its address of one phase and its read limit of 1 ms. -/
theorem test_grantBus : (grantBus (racked (busy (.erase false 5) 1 none false) none .erasing)).de.grant
    = some ⟨3, .erase, some 32000, ⟨.group 5, 1, 1⟩⟩ := by decide +kernel

theorem witness_RackWorkBegins : socketOf nine 3 = none
    ∧ socketOf (racked (busy .headerWrite 1 none false) none .writing) 3 ≠ none
    ∧ (∀ a ∈ [0, 3], { header with access := a }.access ≤ 3)
    ∧ (racked (busy .headerWrite 1 none false) (granted .write 5) .writing).de.grant = some ⟨3, .write, some 5, ⟨.identity, 1, 1⟩⟩
    ∧ (racked (busy (.erase false 0) 1 none false) (granted .erase 5) .erasing).de.grant
      = some ⟨3, .erase, some 5, ⟨.identity, 1, 1⟩⟩
    ∧ socketOf (racked (busy (.erase false 0) 1 none false) (granted .erase 5) .erasing) 3
      = some (busy (.erase false 0) 1 none false)
    ∧ (∀ k l tr, nine.de.grant ≠ some ⟨k, .write, l, tr⟩)
    ∧ (∀ op ∈ [Op.headerWrite, .eraseHeader true, .eraseHeader false, .sectorWrite 0 0, .sectorWrite 0 1, .directoryWrite],
      let s := racked (busy op 1 none false) none .writing
      s.de.writeSlot = none ∧ (3 : SocketNo) = s.de.lastGranted + 1 + Fin.ofNat 8 3
        ∧ socketOf s 3 = some (busy op 1 none false) ∧ nextStep s 3 = some op ∧ planIn s 3 = some planned
        ∧ (∀ m ∈ List.range 3, nextStep s (s.de.lastGranted + 1 + Fin.ofNat 8 m) = none)
        ∧ planned.placements[0]? = some ⟨0, 0, 0, 1, 4⟩ ∧ placementImage s planned ⟨0, 0, 0, 1, 4⟩ = some ⟨3, 1⟩
        ∧ dirIndex s ⟨3, 1⟩ = some 0 ∧ dirAt s 0 = some onHand ∧ physical s onHand 0 = some 0 ∧ physical s onHand 1 = some 1
        ∧ recordOf s planned.order = some writing) := by
  refine ⟨by decide, by decide +kernel, by decide, by decide, by decide, by decide +kernel, ?_, by decide +kernel⟩
  rintro k l tr h
  cases h

/-- R94: a cartridge of access class 0 programs for at most 100 ms. -/
theorem test_writePosted : ((socketOf (after (.writePosted 0)
    (racked (busy .headerWrite 1 none false) (granted .write 5) .writing)) 3).bind (·.deadline)) = some 3200000 := by
  decide +kernel

/-- A socket being identified, its header read granted. -/
def fresh : SocketEntry :=
  { state := .identifying, serial := none, header := none, op := none, attempt := 1, deadline := none, stale := false,
    silent := false, dirCheck := 0 }
def identifying (s : State) : State := { s with de := { s.de with sockets := [(3, fresh)], grant := granted .headerRead 5 } }

/-- The pool with cartridge 100 out of the rack, without a link. -/
def known (st : CartState) : State :=
  identifying { nine with cp := { records := [(0, { pooled st with socket := none, link := none })], stamp := 0 } }

theorem witness_HeaderIdentifiesTheCartridge :
    (identifying nine).cfl.phase = .running ∧ (identifying nine).de.grant = granted .headerRead 5
    ∧ socketOf (identifying nine) 3 = some fresh
    ∧ (∀ h ∈ [header, { header with erased := false }, { header with e := 4, width := 16 }],
      readHeaderArea (headerBytes h) = h ∧ h.e ≤ 4 ∧ (h.width = 8 ∨ h.width = 16))
    ∧ (∀ h ∈ [{ header with e := 5 }, { header with width := 4 }],
      readHeaderArea (headerBytes h) = h ∧ (4 < h.e ∨ (h.width ≠ 8 ∧ h.width ≠ 16)))
    ∧ serialElsewhere (identifying nine) 3 100 = false
    ∧ serialElsewhere { nine with de := { nine.de with sockets := [(2, { fresh with serial := some 100 }), (3, fresh)] } } 3
      100 = true
    ∧ cartOf (identifying nine) 100 = none ∧ Table.firstFree 512 (identifying nine).cp.records = some 0
    ∧ (∀ st ∈ [CartState.out, .faulted, .retired, .packed, .written, .ready, .blank, .returned, .dirty, .missing],
      (cartOf (known st) 100).map (·.state) = some st)
    ∧ inLane (known .packed) { pooled .packed with socket := none, link := none } = false
    ∧ (let s := { known .packed with
         wq := { nine.wq with
           records := [standing .laned], plan := [(0, { planned with written := true })] }
         cp := { records := [(0, { pooled .packed with socket := none })], stamp := 0 } }
       inLane s { pooled .packed with socket := none } = true) := by decide +kernel

/-- A full pool, each record as `f` gives it. -/
def fullPool (f : Nat → CartState) : State :=
  identifying { nine with cp := {
    records := (List.range 512).map (fun i => (i, { readyCart (1000 + i) with state := f i, stamp := 600 - i })), stamp := 600 } }

theorem witness_HeaderIdentifiesTheCartridge_full :
    (∀ f ∈ [fun _ => CartState.out, fun i => if i < 2 then .blank else .out, fun i => if i < 2 then .faulted else .blank],
      cartOf (fullPool f) 100 = none ∧ Table.firstFree 512 (fullPool f).cp.records = none
        ∧ serialElsewhere (fullPool f) 3 100 = false)
    ∧ (∀ x ∈ (fullPool (fun _ => .out)).cp.records, x.2.state = .out)
    ∧ (let s := fullPool (fun i => if i < 2 then .blank else .out)
       (s.cp.records.at? 1).map (fun r => (r.state, r.stamp)) = some (.blank, 599)
        ∧ ∀ x ∈ s.cp.records, (x.2.state = .faulted ∨ x.2.state = .retired → x.2.socket ≠ none)
          ∧ (x.2.state = .blank → 599 < x.2.stamp ∨ (599 = x.2.stamp ∧ 1 ≤ x.1)))
    ∧ (let s := fullPool (fun i => if i < 2 then .faulted else .blank)
       (s.cp.records.at? 1).map (fun r => (r.state, r.socket, r.stamp)) = some (.faulted, none, 599)
        ∧ ∀ x ∈ s.cp.records, x.2.state = .faulted ∨ x.2.state = .retired → x.2.socket = none →
          599 < x.2.stamp ∨ (599 = x.2.stamp ∧ 1 ≤ x.1)) := by decide +kernel

theorem witness_HeaderIdentifiesTheCartridge_start :
    (∀ l ∈ [[3], [3, 5]], let s := { identifying startingNine with de := { (identifying nine).de with unidentified := l } }
      s.cfl.phase = .blocks ∧ s.de.unidentified = l ∧ s.de.grant = granted .headerRead 5 ∧ socketOf s 3 = some fresh)
    ∧ ((known .ready).cp.records.map (·.2.serial)).Nodup
    ∧ (∀ st ∈ [CartState.ready, .written, .dirty], (cartOf (known st) 100).map (fun r => (r.state, r.socket)) = some (st, none)) := by
  decide +kernel

/-- R119: the oldest Blank record of a full pool makes room. R127: the start's last socket makes a Ready record Blank. -/
theorem test_headerReadDone_full :
    (cartOf (after (.headerReadDone 0 (headerBytes header)) (fullPool (fun i => if i < 2 then .blank else .out))) 1001).isNone
    ∧ (socketOf (after (.headerReadDone 0 (headerBytes header)) (fullPool (fun _ => .out))) 3).map (·.state) = some .refused
    ∧ (cartOf (completeStart (known .ready)) 100).map (·.state) = some .blank := by decide +kernel

/-- R117: an unknown erased cartridge becomes Ready in a Holding socket; an unknown unerased one is erased. -/
theorem test_headerReadDone :
    (cartOf (after (.headerReadDone 0 (headerBytes header)) (identifying nine)) 100).map (·.state) = some .ready
    ∧ (cartOf (after (.headerReadDone 0 (headerBytes { header with erased := false })) (identifying nine)) 100).map (·.state)
      = some .erasing := by decide +kernel

/-- R118: a cartridge on loan that is put into the rack is refused. -/
theorem test_headerReadDone_onLoan : (socketOf (after (.headerReadDone 0 (headerBytes header)) (known .out)) 3).map (·.state)
    = some .refused := by decide +kernel

theorem witness_FailuresRewriteOnceThenFault :
    (∀ a ∈ [1, 2], ∀ op ∈ [Op.sectorWrite 0 0, .erase false 3],
      socketOf (racked (busy op a (some 9) false) none .writing) 3 = some (busy op a (some 9) false)
      ∧ (busy op a (some 9) false).op = some op ∧ (busy op a (some 9) false).serial = some 100
      ∧ (busy op a (some 9) false).deadline = some 9 ∧ 9 ≤ max nine.clock 9 ∧ max nine.clock 8 < 9
      ∧ socketOf (racked (busy op a (some 9) true) none .writing) 3 = some (busy op a (some 9) true)
      ∧ socketOf (racked { busy op a none false with silent := true } none .writing) 3
        = some { busy op a none false with silent := true }
      ∧ (racked (busy op a none false) (granted .write 9) .writing).de.grant = granted .write 9
      ∧ BusOp.write ≠ .headerRead)
    ∧ (let s := racked (busy (.verifySector 0 0) 1 none false) (granted .sectorRead 9) .verifying
       s.de.grant = granted .sectorRead 9 ∧ planIn s 3 = some planned ∧ sourceSector s planned 0 0 = some (0, 0)
        ∧ portForCheck s = true ∧ crc32 [1] ≠ checkOf (applyFade sound s) 0
        ∧ portForCheck { s with isc := (ported .scrub).isc } = true
        ∧ portForCheck { s with isc := { (ported (.serve 0)).isc with serve0 := some { serving with ready := none } } } = false)
    ∧ (let s := racked (busy .verifyDirectory 1 none false) (granted .sectorRead 9) .verifying
       socketOf s 3 = some (busy .verifyDirectory 1 none false)
        ∧ crc32 (([1] : List Byte).take (directoryBody s planned).length) ≠ (busy .verifyDirectory 1 none false).dirCheck)
    ∧ (identifying nine).de.grant = granted .headerRead 5 ∧ 5 ≤ max (identifying nine).clock 5
    ∧ socketOf nine 3 = none ∧ nine.de.grant = none := by decide +kernel

/-- A transfer of socket 3 in progress, its limit running and not yet reached, or ended by the first ready. -/
theorem witness_FailuresRewriteOnceThenFault_firstReady :
    ∀ l ∈ [some 9, none], ∀ b ∈ [BusOp.headerRead, .write, .sectorRead, .erase],
      let s := racked (busy (.sectorWrite 0 0) 1 none false) (some ⟨3, b, l, ⟨.identity, 1, 1⟩⟩) .writing
      s.de.grant = some ⟨3, b, l, ⟨.identity, 1, 1⟩⟩ ∧ l.all (fun d => max s.clock 8 < d) ∧ (3 : SocketNo) ≠ 5
        ∧ socketOf s 3 = some (busy (.sectorWrite 0 0) 1 none false) ∧ socketOf s 5 = none
        ∧ (busy (.sectorWrite 0 0) 1 (some 9) false).deadline.all (fun d => max s.clock 8 < d) := by decide +kernel

/-- R94: after the first ready of a transfer its read limit cannot fail it any more. -/
theorem test_firstReadyEndsTheLimit :
    let s := racked (busy (.sectorWrite 0 0) 1 none false) (granted .write 9) .writing
    (after (.readLimitExpiry 9) (after (.cartridgeReady 8 3 true) s)).de.grant = some ⟨3, .write, none, ⟨.identity, 1, 1⟩⟩
      ∧ (after (.readLimitExpiry 9) s).de.grant ≠ some ⟨3, .write, some 9, ⟨.identity, 1, 1⟩⟩ := by decide +kernel

theorem witness_FailuresRewriteOnceThenFault_waits :
    (∀ p ∈ [PortUser.duplicator, .serve 0], let r := racked (busy (.verifySector 0 0) 1 none false) (granted .sectorRead 9) .verifying
       let s := { slotted (.filling 0 0) r with isc := { r.isc with port := some p } }
       portWants s .duplicator = true ∧ s.isc.port = some p ∧ portWants r .duplicator = false
        ∧ (p = .duplicator → portForCheck s = true))
    ∧ (∀ b ∈ [true, false], let r := racked (busy (.verifySector 0 0) 1 none false) none .verifying
       let s := { r with de := { r.de with readSlot := some ⟨3, [1], b⟩ } }
       s.de.readSlot = some ⟨3, [1], b⟩ ∧ socketOf s 3 = some (busy (.verifySector 0 0) 1 none false)
        ∧ planIn s 3 = some planned ∧ sourceSector s planned 0 0 = some (0, 0) ∧ crc32 [1] ≠ checkOf s 0
        ∧ crc32 [] = checkOf s 0 ∧ portForCheck s = true ∧ s.isc.port ≠ some .duplicator
        ∧ { s.isc with port := some .duplicator }.port = some .duplicator) := by decide +kernel

theorem witness_FailuresRewriteOnceThenFault_header :
    (∀ l ∈ [[3], [3, 5]], let s := { identifying startingNine with de := { (identifying nine).de with unidentified := l } }
      s.cfl.phase = .blocks ∧ s.de.unidentified = l ∧ s.de.grant = granted .headerRead 5 ∧ socketOf s 3 = some fresh)
    ∧ (∀ j ∈ ([3] : List SocketNo), j = 3) ∧ (∃ j ∈ ([3, 5] : List SocketNo), j ≠ 3)
    ∧ fresh.deadline = none ∧ fresh.silent = false
    ∧ (let r := racked (busy .verifyDirectory 1 none false) none .verifying
       let s := { r with de := { r.de with readSlot := some ⟨3, [1], false⟩ } }
       s.de.readSlot = some ⟨3, [1], false⟩ ∧ socketOf s 3 = some (busy .verifyDirectory 1 none false)) := by decide +kernel

/-- R92, R113: a header that no one can read refuses the socket and, the last of a start, ends phase 4. -/
theorem test_headerLimit :
    let u := after (.readLimitExpiry 5)
      { identifying startingNine with de := { (identifying nine).de with unidentified := [3] } }
    (socketOf u 3).map (·.state) = some .refused ∧ u.cfl.phase = .running ∧ u.de.unidentified = [] := by decide +kernel

/-- R88: a sector read back behind a slice of the write slot's sector waits in the read slot. -/
theorem test_checkWaits :
    let r := racked (busy (.verifySector 0 0) 1 none false) (granted .sectorRead 9) .verifying
    ((after (.sectorReadDone 0 [1] sound) { slotted (.filling 0 0) r with isc := { r.isc with port := some (.serve 0) } }).de.readSlot)
      = some ⟨3, [1], true⟩ := by decide +kernel

/-- R97, R112: when the cartridge whose sector was filling the write slot is pulled, the sector that waited behind it in
the read slot is checked. -/
theorem test_removalLetsTheCheckGo :
    let r := racked (busy (.verifySector 0 0) 1 none false) none .verifying
    let s := { r with
      isc := { r.isc with port := some .duplicator }
      de := { r.de with
        sockets := r.de.sockets ++ [(5, { busy (.sectorWrite 0 0) 1 none false with serial := some 101 })]
        readSlot := some ⟨3, [1], true⟩, writeSlot := some ⟨5, .filling 0 0⟩ } }
    (after (.cartridgeRemove 0 5) s).de.readSlot = none
      ∧ ((socketOf (after (.cartridgeRemove 0 5) s) 3).map (·.attempt)) = some 2 := by decide +kernel

/-- R106, R108: a sector that does not agree with its check value is written again, the erase first. -/
theorem test_sectorReadDone : ((socketOf (after (.sectorReadDone 0 [1] sound)
    (racked (busy (.verifySector 0 0) 1 none false) (granted .sectorRead 9) .verifying)) 3).map
      (fun e => (e.op, e.attempt))) = some (some (.erase true 0), 2) := by decide +kernel

theorem witness_PassesMoveTheOperationOn :
    (∀ op ∈ [Op.headerWrite, .sectorWrite 0 0, .directoryWrite, .erase false 0, .erase true 2047, .eraseHeader true,
        .eraseHeader false],
      let s := racked (busy op 1 (some 9) false) none .writing
      socketOf s 3 = some (busy op 1 (some 9) false) ∧ (busy op 1 (some 9) false).op = some op
        ∧ planIn s 3 = some planned ∧ (cartOf s 100).isSome)
    ∧ (let s := racked (busy (.verifySector 0 0) 1 none false) (granted .sectorRead 9) .verifying
       s.de.grant = granted .sectorRead 9 ∧ planIn s 3 = some planned ∧ sourceSector s planned 0 0 = some (0, 0)
        ∧ portForCheck s = true ∧ crc32 [] = checkOf (applyFade sound s) 0)
    ∧ (let e := busy .verifyDirectory 1 none false
       let s := racked e (granted .sectorRead 9) .verifying
       socketOf s 3 = some e ∧ crc32 (([] : List Byte).take (directoryBody s planned).length) = e.dirCheck)
    ∧ (nine.de.grant = none) := by decide +kernel

/-- R103, R106: after the last placement's sector comes the directory; after the directory's verify the record is
Written and its bundle, whose one cartridge it is, goes on to Packing. -/
theorem test_writePasses :
    ((socketOf (after (.cartridgeReady 0 3 true) (racked (busy (.sectorWrite 0 0) 1 (some 9) false) none .writing)) 3).bind
      (·.op)) = some .directoryWrite
    ∧ (cartOf (after (.sectorReadDone 0 [] sound)
        (racked (busy .verifyDirectory 1 none false) (granted .sectorRead 9) .verifying)) 100).map (·.state)
      = some .written := by decide +kernel

/-- R111: an erase failure faults the cartridge. -/
theorem test_eraseFails : let u := after (.cartridgeReady 0 3 false) (racked (busy (.erase false 3) 1 (some 9) false) none .erasing)
    (cartOf u 100).map (·.state) = some .faulted ∧ u.pp.events.head? = some (.cartridgeFaulted 3) := by decide +kernel

theorem witness_RemovedCartridgeLeavesItsRecord :
    (∀ st ∈ [CartState.ready, .written, .assigned, .writing, .verifying, .erasing],
      let s := racked (busy (.sectorWrite 0 0) 1 (some 9) false) none st
      socketOf s 3 = some (busy (.sectorWrite 0 0) 1 (some 9) false) ∧ s.cfl.phase = .running
        ∧ (busy (.sectorWrite 0 0) 1 (some 9) false).state = .busy
        ∧ (cartOf s 100).map (fun r => (r.state, r.socket)) = some (st, some 3))
    ∧ socketOf (identifying nine) 3 = some fresh ∧ fresh.state = .identifying
    ∧ (let s := { identifying startingNine with de := { (identifying nine).de with unidentified := [3] } }
       socketOf s 3 = some fresh ∧ s.cfl.phase = .blocks ∧ ∀ j ∈ s.de.unidentified, j = 3)
    ∧ (let s := { identifying startingNine with de := { (identifying nine).de with unidentified := [3, 5] } }
       ∃ j ∈ s.de.unidentified, j ≠ 3)
    ∧ socketOf nine 3 = none := by decide +kernel

/-- Station 9 with a Ready cartridge in socket 3 and its plan not yet linked. -/
def assignable : State :=
  let s := racked { busy .headerWrite 1 none false with state := .holding, op := none } none .ready
  { s with wq := { s.wq with plan := [(0, { planned with link := none })] } }

/-- The planned cartridge of `assignable`, its load-asked mark set or not, in a station that owes the walk. -/
def unlinked (asked : Bool) : PlannedCart := { planned with link := none, loadAsked := asked }
def walking (asked : Bool) : State :=
  { assignable with
    wq := { assignable.wq with plan := [(0, unlinked asked)] }
    de := { assignable.de with walkDue := true } }

theorem witness_RackWorkBegins_assignment :
    (∀ a ∈ [true, false], (walking a).de.walkDue = true ∧ (walking a).cfl.phase = .running ∧ (walking a).tablesSound
      ∧ (walking a).wq.plan.at? 0 = some (unlinked a) ∧ (unlinked a).loadAsked = a
      ∧ (cartOf (walking a) 100).map (fun r => (r.serial, r.state)) = some (100, .ready) ∧ (socketOf (walking a) 3).isSome
      ∧ (walking a).pp.events.length < 32 ∧ imagesPresent (walking a) (unlinked a) = true)
    ∧ imagesPresent (walking true) { unlinked true with placements := [⟨1, 0, 0, 1, 4⟩] } = false
    ∧ (let s := racked { busy .headerWrite 1 none false with state := .holding, op := none } none .assigned
       (socketOf s 3).map (·.state) = some .holding ∧ (cartIn s 3).map (·.state) = some .assigned
        ∧ planIn s 3 = some planned ∧ imagesPresent s planned = true)
    ∧ nine.de.writeSlot = none ∧ (slotted (.full []) nine).de.writeSlot ≠ none := by decide +kernel

/-- R101, R102: the walk links the planned cartridge; with nothing in the rack it asks once for a class 0 cartridge. -/
theorem test_walk : ((walk (walking true)).wq.plan.map (fun e => (e.2.link, e.2.loadAsked))) = [(some 100, false)]
    ∧ (walk { walking false with de := { (walking false).de with sockets := [] } }).pp.events = [.loadCartridges 0 0]
    ∧ (walk { walking true with de := { (walking true).de with sockets := [] } }).pp.events = [] := by decide +kernel

theorem witness_AssignmentChoosesTheSmallestFit :
    assignable.wq.plan.at? 0 = some { planned with link := none } ∧ imagesPresent assignable { planned with link := none } = true
    ∧ ({ planned with link := none } : PlannedCart).written = false
    ∧ (chooseCart assignable { planned with link := none }).map (·.1) = some 3
    ∧ chooseCart nine { planned with link := none } = none := by decide +kernel

/-! ## Shelf, holds and loans -/

/-- Station 9 with the argument registers holding title 3 and 255 copies. -/
def asked (a0 a1 a2 a3 : Byte) (s : State) : State :=
  { s with pp := { s.pp with arg0 := a0, arg1 := a1, arg2 := a2, arg3 := a3 } }

/-- Station 9 with `n` copies of title 3, of 6 volumes, `r` of them reserved. -/
def shelved (n r : Nat) : State :=
  asked 3 0 0 1 { nine with shu := { nine.shu with
    shelf := [(0, { title := 3, perCopy := 6, owned := n, onShelf := n, reserved := r, mark := false })] } }

theorem witness_ShelfAddCounts :
    (∀ high ∈ [(0 : BitVec 4), 1, 6, 12, 13], (taking (high ++ 4#4) (shelved 1 0)).pp.slot
      = .executing { byte := high ++ 4#4, arg0 := 3, arg1 := 0, arg2 := 0, arg3 := 1 })
    ∧ (∀ high ∈ [(0 : BitVec 4), 13], high.toNat < 1 ∨ 12 < high.toNat)
    ∧ (∀ high ∈ [(1 : BitVec 4), 12], 1 ≤ high.toNat ∧ high.toNat ≤ 12)
    ∧ (takenBy 0x64 (asked 3 0 0 0 nine)).arg3.toNat < 1
    ∧ (∀ n ∈ [1, 254], (shelfOf (taking 0x64 (shelved n 0)) (argTitle (takenBy 0x64 (shelved n 0)))).map
        (fun e => (e.perCopy, e.owned)) = some (6, n)
      ∧ 1 ≤ (takenBy 0x64 (shelved n 0)).arg3.toNat ∧ n + (takenBy 0x64 (shelved n 0)).arg3.toNat ≤ 255)
    ∧ 255 < 255 + (takenBy 0x64 (shelved 255 0)).arg3.toNat
    ∧ shelfOf (taking 0x64 (asked 3 0 0 255 nine)) (argTitle (takenBy 0x64 (asked 3 0 0 255 nine))) = none
    ∧ Table.firstFree 1024 nine.shu.shelf = some 0 := by decide +kernel

/-- R129: 1 copy of 6 volumes joins 254; the title's 256th copy is refused. -/
theorem test_shelfAdd : ((shelfOf (after (.shelfAdd 0 .act) (taking 0x64 (shelved 254 0))) 3).map (·.owned)) = some 255
    ∧ (after (.shelfAdd 0 .act) (taking 0x64 (shelved 255 0))).pp.outcome = .refused := by decide +kernel

theorem witness_ShelfWithdrawTakesAFreeCopy :
    (∀ r ∈ [1, 2], (taking 5 (shelved 2 r)).pp.slot = .executing (takenBy 5 (shelved 2 r))
      ∧ (takenBy 5 (shelved 2 r)).byte = 0#4 ++ 5#4)
    ∧ ((shelfOf (taking 5 (shelved 2 1)) (argTitle (takenBy 5 (shelved 2 1)))).map
        (fun e => decide (e.reserved < e.onShelf))) = some true
    ∧ ((shelfOf (taking 5 (shelved 2 2)) (argTitle (takenBy 5 (shelved 2 2)))).map (fun e => e.onShelf - e.reserved)) = some 0
    ∧ shelfOf (taking 5 nine) (argTitle (takenBy 5 nine)) = none := by decide +kernel

/-- R130: the last copy withdrawn frees the entry. -/
theorem test_shelfWithdraw : (after (.shelfWithdraw 0 .act) (taking 5 (shelved 1 0))).shu.shelf = []
    ∧ (after (.shelfWithdraw 0 .act) (taking 5 (shelved 1 1))).pp.outcome = .refused := by decide +kernel

/-- An Offered hold that was placed on a given day. -/
def offeredHold (day : Nat) : Hold :=
  { order := 7, item := 0, title := 3, version := 0, volumes := 6, patron := 70, zone := 140, urgency := .normal
    placed := some day, seq := 0, offered := some (2, 500), setAside := false }
def holding (day : Nat) : State := { nine with shu := { nine.shu with holds := [offeredHold day] } }

theorem witness_OfferedHoldReturnsAtItsDeadline :
    (∀ d ∈ [9041, 9040], holdOf (holding d) 7 0 = some (offeredHold d) ∧ (offeredHold d).offered = some (2, 500)
      ∧ 500 ≤ max (holding d).clock 500 ∧ max (holding d).clock 499 < 500 ∧ (offeredHold d).placed = some d
      ∧ (holding d).lu.dayKnown = true ∧ (holding d).fli.txState ≠ .muted ∧ (holding d).fli.queue.length ≤ 15
      ∧ (holding d).pp.events.length < 32)
    ∧ (holding 9041).lu.day - 9041 ≤ (holding 9041).cfl.settings.holdLife
    ∧ (holding 9040).cfl.settings.holdLife < (holding 9040).lu.day - 9040 ∧ holdOf nine 7 0 = none := by decide +kernel

/-- R142: with hold life 90 a hold placed on day 9040 lapses on day 9131, and one placed on day 9041 does not. -/
theorem test_holdDeadline : (after (.holdDeadline 500 7 0) (holding 9040)).shu.holds = []
    ∧ ((after (.holdDeadline 500 7 0) (holding 9041)).shu.holds.map (·.offered)) = [none] := by decide +kernel

/-- Station 9 with Waiting holds of items 0 and 1, the first with a copy set aside or not. -/
def waitingHolds (aside : Bool) : State :=
  { working [{ work with items := work.items.map (fun i => { i with state := .held }) }] with
    shu := { nine.shu with holds := [{ waitingHold 0 with setAside := aside }, { waitingHold 1 with seq := 1 }] } }

/-- An AVAILABLE of `n` copies of title 3, and the HANDOVER of a hold, of station 2. -/
def availableOf3 (n : Nat) : Received := { rawFrame 2 255 8 with subject := 3, detail := BitVec.ofNat 32 n }
def handoverOf (h : Hold) : Received :=
  { rawFrame 2 9 9 with subject := (handoverFrame 9 h).subject, detail := (handoverFrame 9 h).detail
                        payload := (handoverFrame 9 h).payload }

theorem witness_HandoversServeOtherStations :
    (waitingHolds false).tablesSound ∧ (waitingHolds false).fli.txState ≠ .muted
    ∧ (∀ n ∈ [1, 2], ((waitingHolds false).shu.holds.filter
        (fun h => h.title == 3 && h.offered.isNone && !h.setAside)).take (availableOf3 n).detail.toNat
          = (waitingHolds false).shu.holds.take n)
    ∧ (∀ x ∈ [(0, 1), (7, 12)], let h := { waitingHold x.1 with volumes := x.2, zone := 999 }
      h.item ≤ 7 ∧ h.zone ≤ 999 ∧ 1 ≤ h.volumes ∧ h.volumes ≤ 12 ∧ (readHandover (handoverOf h)).isSome)
    ∧ readHandover (rawFrame 2 9 9) = none
    ∧ (readHandover (handoverOf (waitingHold 0)) = some { waitingHold 0 with placed := none }
      ∧ auctionOf (shelved 1 0) 7 = none ∧ recordOf (shelved 1 0) 7 = none ∧ holdOf (shelved 1 0) 7 0 = none
      ∧ (shelved 1 0).pp.pause = false ∧ (shelved 1 0).fli.txState ≠ .muted ∧ 0 < freeCopies (shelved 1 0) 3
      ∧ hasRoom (shelved 1 0) 7 0 = true)
    ∧ freeCopies (shelved 1 1) 3 = 0 ∧ (recordOf (working [work]) 7 = some work ∧ (work.item? 0).isSome)
    ∧ (holdOf (holding 9041) 7 0 = some (offeredHold 9041) ∧ (offeredHold 9041).offered = some (2, 500)
      ∧ (offeredHold 9040).placed = some 9040 ∧ (holding 9040).cfl.settings.holdLife < (holding 9040).lu.day - 9040
      ∧ (holding 9041).lu.day - 9041 ≤ (holding 9041).cfl.settings.holdLife)
    ∧ (∀ a ∈ [true, false], holdOf (waitingHolds a) 7 0 = some { waitingHold 0 with setAside := a })
    ∧ holdOf (waitingHolds true) 7 2 = none
    ∧ (detailByte { takeOf7 5 with detail := 0 } 0 = 0 ∧ (takeOf7 5).payload.length = 3
      ∧ detailByte { closedOf7 3 with detail := 7 } 0 = 7 ∧ (readClosed { closedOf7 3 with detail := 7 }).isSome) := by
  refine ⟨by decide +kernel, by decide, by decide +kernel, by decide +kernel, by decide, by decide +kernel, by decide,
    by decide, by decide +kernel, by decide, by decide, by decide +kernel⟩

/-- R138, R139: an AVAILABLE of one copy brings one HANDOVER; R140: a HANDOVER with a free copy is taken. -/
theorem test_handovers : (hearAvailable (availableOf3 1) (waitingHolds false)).fli.queue = [handoverFrame 2 (waitingHold 0)]
    ∧ (hearHandover (handoverOf (waitingHold 0)) (shelved 1 0)).fli.queue = [takeFrame 7 0 0 (keyOf 9 7)]
    ∧ (hearHandover (handoverOf (waitingHold 0)) (shelved 1 1)).fli.queue = [refuseFrame 2 7 0] := by decide +kernel

/-- Station 9 with free copies of title 3 and one Waiting hold, with or without a copy set aside, for an order with a
record or without. -/
def serving3 (free : Nat) (aside : Bool) (rs : List WorkRecord) : State :=
  { shelved (free + 1) 1 with
    wq := { nine.wq with records := rs }
    shu := { (shelved (free + 1) 1).shu with holds := [{ waitingHold 0 with setAside := aside }] } }

/-- The record of order 7 with `n` bundles and its item Held, or not. -/
def bundled (n : Nat) (st : ItemState) : WorkRecord :=
  { work with
    items := work.items.map (fun i => { i with state := st })
    bundles := (List.range n).map (fun i => { number := i + 1, riders := [], state := .laned, containers := [] }) }

theorem witness_RoomForItemTake_pass :
    (∀ aside ∈ [true, false], let h := { waitingHold 0 with setAside := aside }
      hasRoom (serving3 1 aside []) h.order h.item = true ∧ auctionOf (serving3 1 aside []) h.order = none
        ∧ freeCopies (serving3 1 aside []) h.title = 1 ∧ freeCopies (serving3 0 aside []) h.title = 0
        ∧ (serving3 1 aside [bundled 8 .held]).tablesSound
        ∧ hasRoom (serving3 1 aside [bundled 8 .held]) h.order h.item = false
        ∧ (recordOf (serving3 1 aside [bundled 8 .held]) h.order).map (·.bundles.length) = some 8
        ∧ hasRoom (serving3 1 aside [{ bundled 7 .held with endMark := .cancelled }]) h.order h.item = false
        ∧ (recordOf (serving3 1 aside [bundled 7 .planned]) h.order).bind (fun r => (r.item? h.item).map (·.state))
          = some .planned)
    ∧ (auctionOf { serving3 1 false [] with au := { nine.au with entries := [(0, { bidding with order := 7 })] } } 7).isSome
    ∧ 0 < freeCopies (servePass (serving3 2 false []) 3) 3 ∧ freeCopies (servePass (serving3 1 false []) 3) 3 = 0 := by
  decide +kernel

/-- R135, R136: a pass serves the hold, or sets a copy aside for it, and marks the entry when a copy is left. -/
theorem test_servePass :
    ((servePass (serving3 1 false []) 3).shu.holds = [] ∧ (recordOf (servePass (serving3 1 false []) 3) 7).isSome)
    ∧ (servePass (serving3 1 false [bundled 8 .held]) 3).shu.holds.map (·.setAside) = [true]
    ∧ (shelfOf (serveAndMark (serving3 2 false []) 3) 3).map (fun e => (e.reserved, e.mark)) = some (2, true)
    ∧ (servePass (serving3 0 true [bundled 7 .planned]) 3).shu.holds = [] := by decide +kernel

theorem witness_RoomForItemTake_refused : let s := { nine with wq := { nine.wq with records := [work] } }
    hasRoom s (offeredHold 9041).order (offeredHold 9041).item = false ∧ mustSetAside s (offeredHold 9041) = false := by
  decide +kernel

/-- A mailed and a carded loan of station 9, and a state holding it. -/
def loan (st : LoanState) (body : LoanBody) : Loan :=
  { tag := ⟨9, 4711⟩, order := 7, patron := 70, zone := 140, body := body, carded := 9131, due := 9173, state := st }
def cartBody : LoanBody := .cartridge [100, 101]
def brailleBody (part : Nat) : LoanBody := .braille 0 3 ⟨9, 4711⟩ part 2 (4 * part - 3) (4 * part) 6
def lending (l : Loan) : State := { nine with lu := { nine.lu with loans := [(0, l)] } }

/-- Station 9 with loans: two of a title's copy set, and a cartridge loan, written off on day 9131 if Overdue. -/
def lendings (st st2 : LoanState) : State :=
  { nine with lu := { nine.lu with loans := [
      (0, { loan st cartBody with due := 8951 }),
      (1, { loan st (brailleBody 1) with tag := ⟨9, 4712⟩, due := 8951 }),
      (2, { loan st2 (brailleBody 2) with tag := ⟨9, 4713⟩, due := 9173 })] } }

theorem witness_DayAndReturnKeepTheLoans :
    (∀ d ∈ [65536, 9130, 9131, 9132, 65535], let f : Received := { rawFrame 0 255 3 with subject := BitVec.ofNat 32 d }
      f.subject.toNat = d)
    ∧ nine.lu.day = 9131
    ∧ (∀ st ∈ [LoanState.out, .carded], (lendings .out st).tablesSound ∧ (lendings .out st).bounded
      ∧ 8951 + (lendings .out st).cfl.settings.writeOffDays ≤ (lendings .out st).lu.day)
    ∧ ((brailleBody 1) = .braille 0 3 ⟨9, 4711⟩ 1 2 1 4 6
      ∧ ∀ e ∈ (lendings .out .out).lu.loans, e.2.body.copySet? = some ⟨9, 4711⟩ → e.2.state ≠ .carded ∧ e.2.state ≠ .inTransfer)
    ∧ (∀ n ∈ [1, 16, 17], (List.replicate n (7, ⟨9, 4711⟩) : List (OrderSerial × LoanTag)).length = n)
    ∧ (returnFrame ⟨9, 4711⟩ [100] true).payload.length = 6
    ∧ (∀ st ∈ [LoanState.out, .overdue, .carded], (loanOf (lending (loan st cartBody)) ⟨9, 4711⟩).map (·.state) = some st)
    ∧ (tagOf (returnFrame ⟨9, 4711⟩ [100] true).subject.toNat).station = nine.cfl.station := by
  refine ⟨by decide, by decide, by decide +kernel, by decide +kernel, by decide, by decide, by decide +kernel,
    by decide +kernel⟩

/-- R154, R155: the overdue scan writes the loans off, a copy set whole or not at all. -/
theorem test_overdueScan : (overdueScan (lendings .out .out)).lu.loans = [] ∧ (overdueScan (lendings .out .out)).lu.writeOffs = 3
    ∧ (overdueScan (lendings .out .carded)).lu.loans.map (fun e => (e.1, e.2.state)) = [(1, .overdue), (2, .carded)] := by
  decide +kernel

theorem witness_LoanSerialsGoRound : (∀ l ∈ [loan .carded cartBody], (lending l).lu.loans.length ≤ 2048
      ∧ (lending l).lu.dayKnown = true ∧ Table.firstFree 2048 (lending l).lu.loans = some 1)
    ∧ State.reset.lu.dayKnown = false
    ∧ Table.firstFree 2 [(0, loan .carded cartBody), (1, loan .out cartBody)] = none := by decide +kernel

/-- R147: the counter passes over a serial that is held. -/
theorem test_nextLoanSerial :
    nextLoanSerial { lending (loan .out cartBody) with
      lu := { (lending (loan .out cartBody)).lu with nextSerial := 4711 } } = 4712 := by decide +kernel

/-! ## The mail lane -/

/-- A Written bundle with a riding item of a given pick state, the order's serial in the arguments. -/
def picking (p : PickState) : State :=
  asked 7 0 0 0 { nine with wq := { nine.wq with records := [{ work with
    bundles := [{ number := 1, riders := [{ item := 0, pick := some p, copySet := none }], state := .written,
                  containers := [] }] }] } }

theorem witness_PickDoneConfirmsAPendingPick :
    (∀ p ∈ [PickState.pending, .picked], ∀ high ∈ [(0 : BitVec 4), 8], (taking (high ++ 3#4) (picking p)).pp.slot
      = .executing { byte := high ++ 3#4, arg0 := 7, arg1 := 0, arg2 := 0, arg3 := 0 })
    ∧ (∀ p ∈ [PickState.pending, .picked], ((recordOf (taking 3 (picking p)) (argOrder (takenBy 3 (picking p)))).map (fun r =>
        r.bundles.map (fun b => (b.state, b.riders.map (fun x => (x.item, x.pick)))))) = some [(.written, [(0, some p)])])
    ∧ (0 : BitVec 4).toNat ≤ 7 ∧ 7 < (8 : BitVec 4).toNat := by decide +kernel

/-- R159: the second PickDone for the same item is refused. -/
theorem test_pickDone : (after (.pickDone 0 .act) (taking 3 (picking .pending))).pp.outcome = .accepted
    ∧ (after (.pickDone 0 .act) (taking 3 (picking .picked))).pp.outcome = .refused
    ∧ (after (.pickDone 0 .act) (taking 0x83 (picking .pending))).pp.outcome = .refused := by decide +kernel

/-- Station 9 with a Carded loan in the lane order, its container in a Packing bundle. -/
def laning (w : Writer) (c : CardState) (g : Gate) : State :=
  { lending (loan .carded cartBody) with
    wq := { nine.wq with records := [{ work with
      bundles := [{ number := 1, riders := [], state := .packing, containers := [
        { body := .cartridges [100, 101], items := [0], state := .carded, tag := some ⟨9, 4711⟩ }] }] }] }
    mlc := { nine.mlc with laneList := [(7, 1)], laneOrder := [⟨⟨9, 4711⟩, c⟩], writer := w, gate := g } }

/-- A Written bundle with a Packed cartridge in place 1 and a picked riding copy, its day known or not. -/
def packable (st : CartState) : State :=
  { racked (busy .headerWrite 1 none false) none st with
    de := nine.de
    wq := { nine.wq with
      records := [{ writing with bundles := [{ number := 1, riders := [], state := .written, containers := [] }] }]
      plan := [(0, { planned with written := true })] } }

/-- A Packing bundle with a container to be carded. -/
def cardable (b : ContainerBody) : State :=
  { packable .packed with
    wq := { (packable .packed).wq with records := [{ writing with bundles := [
      { number := 1, riders := [{ item := 0, pick := some .picked, copySet := none }], state := .packing
        containers := [{ body := b, items := [0], state := .uncarded, tag := none }] }] }] }
    mlc := { nine.mlc with laneList := [(7, 1)] } }

theorem witness_PackingAndCardingMoveTheLane :
    (∀ st ∈ [CartState.packed, .written], ((recordOf (packable st) 7).map (fun r => r.bundles.map (·.state))) = some [.written]
      ∧ (bundleCarts (packable st) 7 1).map (fun e => e.2.link) = [some 100] ∧ (cartOf (packable st) 100).map (·.state) = some st)
    ∧ ((work.item? 0).map (·.title) = some 3 ∧ (shelfOf (shelved 1 0) 3).map (·.perCopy) = some 6)
    ∧ (∀ n ∈ [5, 6], (List.replicate n (⟨⟨9, 1⟩, .writing⟩ : LaneSlot)).length = n)
    ∧ (∀ b ∈ [ContainerBody.cartridges [100], .braille 0 3 1 2 1 4 6],
      (cardable b).mlc.writer = .idle ∧ (cardable b).mlc.laneOrder.length < 6 ∧ (cardable b).lu.dayKnown = true
        ∧ Table.firstFree 2048 (cardable b).lu.loans = some 0
        ∧ (findContainer (cardable b) (fun c => c.state == .uncarded)).map (·.1) = some ⟨7, 1, 0⟩
        ∧ (recordOf (cardable b) 7).isSome ∧ (spotBundle (cardable b) ⟨7, 1, 0⟩).isSome)
    ∧ (∀ e ∈ nine.mlc.laneList, ∀ b, laneBundle nine e = some b → ∀ x ∈ b.containers, x.state ≠ .uncarded)
    ∧ (laning .idle .done (.holding none 3)).mlc.gate = .holding none 3 ∧ State.reset.lu.dayKnown = false := by
  refine ⟨by decide +kernel, by decide, by decide, by decide +kernel, fun e he => (by cases he), by decide, by decide⟩

/-- R160, R162: a bundle of one Packed cartridge is packed, and the container's card goes to the writer. -/
theorem test_mlcStage : let u := mlcStage (packable .packed)
    u.mlc.writer = .writing ⟨9, 0⟩ none ∧ (loanOf u ⟨9, 0⟩).map (·.body) = some (.cartridge [100])
      ∧ (recordOf u 7).map (fun r => r.bundles.map (·.state)) = some [.packing] := by decide +kernel

theorem witness_CardAnswersMoveTheWriter :
    (∀ d ∈ [none, some 500], (laning (.writing ⟨9, 4711⟩ d) .writing .empty).mlc.writer = .writing ⟨9, 4711⟩ d)
    ∧ (500 ≤ max nine.clock 500 ∧ max nine.clock 499 < 500)
    ∧ (containerOf (laning (.writing ⟨9, 4711⟩ none) .writing .empty) ⟨9, 4711⟩).map (·.1) = some ⟨7, 1, 0⟩
    ∧ (spotBundle (laning (.writing ⟨9, 4711⟩ none) .writing .empty) ⟨7, 1, 0⟩).isSome
    ∧ (laning (.fault ⟨9, 4711⟩) .fault .empty).mlc.writer = .fault ⟨9, 4711⟩
    ∧ loanOf (laning (.fault ⟨9, 4711⟩) .fault .empty) ⟨9, 4711⟩ = some (loan .carded cartBody)
    ∧ (∀ s ∈ [nine, laning (.fault ⟨9, 4711⟩) .fault .empty], (taking 8 s).pp.slot = .executing (takenBy 8 s)
      ∧ (takenBy 8 s).byte = 0#4 ++ 8#4)
    ∧ (∀ d, nine.mlc.writer ≠ .writing ⟨9, 4711⟩ d) ∧ (∀ tag, nine.mlc.writer ≠ .fault tag)
    ∧ ∀ tag d, nine.mlc.writer ≠ .writing tag d := by
  refine ⟨by decide +kernel, by decide, by decide +kernel, by decide +kernel, by decide, by decide +kernel,
    by decide +kernel, fun d h => (by cases h), fun tag h => (by cases h), fun tag d h => (by cases h)⟩

/-- R162, R163: the card of the bundle's only container is Done, and the bundle Laned. -/
theorem test_cardDone : let u := after (.cardDone 0 ⟨9, 4711⟩) (laning (.writing ⟨9, 4711⟩ none) .writing .empty)
    u.mlc.writer = .idle ∧ (spotBundle u ⟨7, 1, 0⟩).map (·.state) = some .laned := by decide +kernel

/-- R163: a card that takes 2000 ms is a fault, and CardRewrite writes it again. -/
theorem test_cardDeadline :
    let u := after (.cardDeadline 64000000) (after (.cardImageSent 0) (laning (.writing ⟨9, 4711⟩ none) .writing .empty))
    u.mlc.writer = .fault ⟨9, 4711⟩ ∧ u.pp.events = [.cardFault ⟨9, 4711⟩]
      ∧ (after (.cardRewrite 64000000 .act) (taking 8 u)).mlc.writer = .writing ⟨9, 4711⟩ none := by decide +kernel

/-- The tag's three bytes stand in the arguments. -/
def tagged (s : State) : State := asked 0x67 0x12 0x90 0 s

theorem witness_WithdrawnContainerIsUncarded :
    let s := tagged (laning (.writing ⟨9, 4711⟩ none) .writing .empty)
    (taking 9 s).pp.slot = .executing (takenBy 9 s) ∧ (takenBy 9 s).byte = 0#4 ++ 9#4 ∧ argTag (takenBy 9 s) = ⟨9, 4711⟩
      ∧ (∃ l ∈ s.mlc.laneOrder, l.tag = ⟨9, 4711⟩)
      ∧ (∀ b, s.mlc.gate ≠ .diverting (some ⟨9, 4711⟩) b) ∧ (∀ b, s.mlc.gate ≠ .holding (some ⟨9, 4711⟩) b)
      ∧ (containerOf s ⟨9, 4711⟩).map (·.1) = some ⟨7, 1, 0⟩ ∧ (spotBundle s ⟨7, 1, 0⟩).isSome
      ∧ (∀ l ∈ nine.mlc.laneOrder, l.tag ≠ ⟨9, 4711⟩)
      ∧ (tagged (laning .idle .done (.holding (some ⟨9, 4711⟩) 3))).mlc.gate = .holding (some ⟨9, 4711⟩) 3
      ∧ (tagged (laning .idle .done (.diverting (some ⟨9, 4711⟩) 3))).mlc.gate = .diverting (some ⟨9, 4711⟩) 3 := by
  refine ⟨by decide, by decide, by decide +kernel, by decide +kernel, fun b h => (by cases h), fun b h => (by cases h),
    by decide +kernel, by decide +kernel, by decide, by decide, by decide⟩

/-- A container with a part of the copy of item 0. -/
def partContainer (k : Nat) (st : ContainerState) (tag : Option LoanTag) : Container :=
  { body := .braille 0 3 k 2 (4 * k - 3) (4 * k) 6, items := [0], state := st, tag := tag }

/-- Part 1 of a copy set is carded, its other part in a given state. -/
def partLane (st : ContainerState) (g : Gate) : State :=
  tagged { lending (loan .carded (brailleBody 1)) with
    shu := (shelved 1 1).shu
    wq := { nine.wq with records := [{ work with
      bundles := [{ number := 1, riders := [{ item := 0, pick := some .picked, copySet := some ⟨9, 4711⟩ }], state := .laned,
                    containers := [partContainer 1 .carded (some ⟨9, 4711⟩), partContainer 2 st none] }] }] }
    mlc := { nine.mlc with laneList := [(7, 1)], laneOrder := [⟨⟨9, 4711⟩, .done⟩], gate := g } }

theorem witness_WithdrawnContainerIsUncarded_parts : ∀ st ∈ [ContainerState.uncarded, .carded, .entered],
    let s := partLane st .empty
    argTag (takenBy 9 s) = ⟨9, 4711⟩ ∧ (∃ l ∈ s.mlc.laneOrder, l.tag = ⟨9, 4711⟩)
      ∧ containerOf s ⟨9, 4711⟩ = some (⟨7, 1, 0⟩, partContainer 1 .carded (some ⟨9, 4711⟩))
      ∧ (spotBundle s ⟨7, 1, 0⟩).map (fun b => b.containers[1]?) = some (some (partContainer 2 st none))
      ∧ (partContainer 2 st none).items = [0] ∧ (partContainer 2 st none).serials = [] := by decide +kernel

/-- R164: the copy-set tag goes with the only part that was carded, and stays while another part has entered. -/
theorem test_dropSet : ∀ x ∈ [(ContainerState.uncarded, none), (.entered, some (⟨9, 4711⟩ : LoanTag))],
    ((withdrawContainer ⟨9, 4711⟩ (partLane x.1 .empty)).bind (fun v => spotBundle v ⟨7, 1, 0⟩)).map
      (fun b => b.riders.map (·.copySet)) = some [x.2] := by decide +kernel

/-- R164: the loan is gone and the container Uncarded, and carding begins anew with the next serial (R162). -/
theorem test_containerWithdraw :
    let u := after (.containerWithdraw 0 .act) (taking 9 (tagged (laning .idle .done .empty)))
    u.pp.outcome = .accepted ∧ u.mlc.laneOrder = [⟨⟨9, 0⟩, .writing⟩] ∧ (loanOf u ⟨9, 4711⟩).isNone := by decide +kernel

theorem witness_GateTakesContainersToBins_detection :
    ((laning .idle .done .empty).mlc.gate = .empty
      ∧ (laning .idle .done .empty).mlc.laneOrder.find? (fun l => l.card == .done) = some ⟨⟨9, 4711⟩, .done⟩)
    ∧ (∀ l ∈ (laning .idle .writing .empty).mlc.laneOrder, l.card ≠ .done)
    ∧ (laning .idle .done (.diverting none 3)).mlc.gate ≠ .empty
    ∧ (∀ q ∈ [({ field := .zone, test := .less, lo := 140, hi := 0, bin := 1 } : SortRule)],
      q.test.passes q.lo q.hi (({ zone := 140, kind := 0, weight := 2, urgency := 0 } : RuleFields).get q.field) = false)
    ∧ RuleTest.inside.passes 140 140 140 = true := by decide +kernel

/-- R167: the chosen bin is Full and so is the overflow bin: the gate holds. -/
theorem test_detection : (after (.detection 0) (laning .idle .done .empty)).mlc.gate = .diverting (some ⟨9, 4711⟩) 0
    ∧ (after (.detection 0) { laning .idle .done .empty with mlc := { (laning .idle .done .empty).mlc with bins := [] } }).mlc.gate
      = .holding (some ⟨9, 4711⟩) 0 := by decide +kernel

/-- A bin of capacity 40 with `n` containers. -/
def bin (n : Nat) : Bin := { state := .open, capacity := 40, count := n, first := none, last := none }

/-- Bin 3 holds `n` containers, and the gate is as given. -/
def binned (n : Nat) (g : Gate) : State :=
  asked 3 0 0 0 { laning .idle .done g with mlc := { (laning .idle .done g).mlc with
    bins := nine.mlc.bins.set 3 (bin n) } }

theorem witness_GateTakesContainersToBins :
    (∀ n ∈ [0, 39], ∀ tag ∈ [none, some (⟨9, 4711⟩ : LoanTag)],
      (binned n (.diverting tag 3)).mlc.gate = .diverting tag 3 ∧ (binned n (.diverting tag 3)).mlc.bins[3]? = some (bin n)
        ∧ (bin n).state = .open ∧ (binned n (.diverting tag 3)).pp.events.length < 32)
    ∧ (bin 39).capacity ≤ (bin 39).count + 1
    ∧ (containerOf (binned 39 (.diverting (some ⟨9, 4711⟩) 3)) ⟨9, 4711⟩).map (·.1) = some ⟨7, 1, 0⟩
    ∧ ∀ tag b, nine.mlc.gate ≠ .diverting tag b :=
  ⟨by decide +kernel, by decide, by decide +kernel, fun tag b h => (by cases h)⟩

theorem witness_GateTakesContainersToBins_parts : ∀ st ∈ [ContainerState.uncarded, .carded, .entered],
    let s := partLane st (.diverting (some ⟨9, 4711⟩) 3)
    s.mlc.gate = .diverting (some ⟨9, 4711⟩) 3 ∧ (s.mlc.bins[3]?).isSome
      ∧ containerOf s ⟨9, 4711⟩ = some (⟨7, 1, 0⟩, partContainer 1 .carded (some ⟨9, 4711⟩))
      ∧ (spotBundle s ⟨7, 1, 0⟩).isSome ∧ (recordOf s 7).isSome
      ∧ containerOf (binned 39 (.diverting none 3)) ⟨5, 1⟩ = none := by decide +kernel

/-- R131, R53: the first part to enter takes the copy off the shelf, and the record notes the entry. -/
theorem test_firstPartEnters : let u := after (.diverterAcknowledge 0) (partLane .uncarded (.diverting (some ⟨9, 4711⟩) 3))
    (shelfOf u 3).map (fun e => (e.onShelf, e.reserved)) = some (0, 0)
      ∧ (recordOf u 7).map (fun r => (r.gateCount, r.mailedTags)) = some (1, [(⟨9, 4711⟩, [0])]) := by decide +kernel

/-- R168, R65: the only container of the only bundle enters, and the order completes. -/
theorem test_acknowledge : let u := after (.diverterAcknowledge 0) (binned 39 (.diverting (some ⟨9, 4711⟩) 3))
    (loanOf u ⟨9, 4711⟩).map (·.state) = some .out ∧ u.pp.events = [.binFull 3] ∧ u.wq.records = []
      ∧ u.mlc.laneOrder = [] := by decide +kernel

theorem witness_SackChangedOpensANewSack :
    (∀ g ∈ [Gate.empty, .holding none 3, .diverting none 4],
      (taking 6 (binned 40 g)).pp.slot = .executing (takenBy 6 (binned 40 g))
      ∧ (takenBy 6 (binned 40 g)).byte = 0#4 ++ 6#4 ∧ (takenBy 6 (binned 40 g)).arg0.toNat = 3
      ∧ (binned 40 g).mlc.bins[3]? = some (bin 40) ∧ (bin 40).state ≠ .disabled ∧ (binned 40 g).mlc.gate = g
      ∧ g ≠ .diverting none 3)
    ∧ 11 < (takenBy 6 (asked 12 0 0 0 nine)).arg0.toNat
    ∧ ([{ bin 0 with state := .disabled }][0]?).map (·.state) = some .disabled
    ∧ (binned 0 (.diverting none 3)).mlc.gate = .diverting none 3
    ∧ (∀ x, (binned 40 .empty).mlc.gate ≠ .diverting x 3) ∧ ∀ x y, (binned 40 .empty).mlc.gate ≠ .holding x y :=
  ⟨by decide +kernel, by decide, by decide, by decide, fun x h => (by cases h), fun x y h => (by cases h)⟩

/-- R170: the sack's count goes to the manifest, and the bin is empty. -/
theorem test_sackChanged : let u := after (.sackChanged 0 .act) (taking 6 (binned 40 .empty))
    (u.mlc.manifest.at? 0).map (fun m => (m.sack, m.bin, m.count, m.day)) = some (0, 3, 40, 9131)
      ∧ (u.mlc.bins[3]?).map (·.count) = some 0 ∧ u.mlc.sackNo = 1 := by decide +kernel

theorem witness_SackCloseFillsTheBin :
    (taking 7 (binned 5 .empty)).pp.slot = .executing (takenBy 7 (binned 5 .empty))
    ∧ (takenBy 7 (binned 5 .empty)).byte = 0#4 ++ 7#4 ∧ (takenBy 7 (binned 5 .empty)).arg0.toNat = 3
    ∧ (binned 5 .empty).mlc.bins[3]? = some (bin 5) ∧ (bin 5).state = .open
    ∧ (∀ x, (binned 5 .empty).mlc.gate ≠ .diverting x 3) ∧ (binned 5 (.diverting none 3)).mlc.gate = .diverting none 3
    ∧ (∀ st ∈ [BinState.full, .disabled], { bin 5 with state := st }.state ≠ .open)
    ∧ 11 < (takenBy 7 (asked 12 0 0 0 nine)).arg0.toNat :=
  ⟨by decide, by decide, by decide, by decide, by decide, fun x h => (by cases h), by decide, by decide, by decide⟩

/-! ## Returns -/

/-- Station 9 with the chute Reading. -/
def reading (s : State) : State := { s with rti := { s.rti with chute := .reading, deadline := some 3200000 } }

theorem witness_ChuteReadsAndRoutesReturns_reports : nine.rti.chute = .idle ∧ (reading nine).rti.chute = .reading
    ∧ (reading nine).rti.deadline = some 3200000 ∧ 3200000 ≤ max (reading nine).clock 3200000
    ∧ (∀ d, (reading nine).rti.deadline = some d → max (reading nine).clock 3199999 < d)
    ∧ (after (.chuteReadFailure 0) (reading nine)).rti.chute = .routing := by
  refine ⟨by decide, by decide, by decide, by decide, ?_, by decide +kernel⟩
  rintro d h
  cases h
  decide

/-- The cards of the statements: an own cartridge card, another station's, a copy-set part, one without an owner. -/
def ownCard : Card := { tag := ⟨9, 4711⟩, body := .cartridge [100, 101] }
def otherCard : Card := { tag := ⟨5, 4711⟩, body := .cartridge [100] }
def otherPart : Card := { tag := ⟨5, 4712⟩, body := .braille 3 ⟨5, 4711⟩ 2 2 5 6 }

/-- An own and a stray part of a copy set. -/
def ownPart (k : Nat) : Card := { tag := ⟨9, 4711⟩, body := .braille 3 ⟨9, 4711⟩ k 2 (4 * k - 3) (4 * k) }

/-- The bits of a return face. -/
def faceBits (c : Card) : List Bool := (returnFace c).flatMap bitsOfByte

theorem witness_ChuteReadsAndRoutesReturns :
    (∀ c ∈ [ownCard, otherCard, otherPart, ownPart 1, ownPart 2], readCard (faceOf (faceBits c)) = .card c)
    ∧ readCard (faceOf (faceBits { ownCard with tag := ⟨0, 1⟩ })) = .noOwner
    ∧ readCard (faceOf ((1 :: (returnFace ownCard).tail).flatMap bitsOfByte)) = .unreadable .checkDigit
    ∧ (reading (lending (loan .out cartBody))).rti.chute = .reading
    ∧ { (reading nine).rti with lastCard := some (ownCard, .intake) }.lastCard = some (ownCard, .intake)
    ∧ (∀ b ∈ [cartBody, brailleBody 1], ∀ st ∈ [LoanState.carded, .out, .overdue],
      loanOf (reading (lending (loan st b))) ownCard.tag = some (loan st b))
    ∧ loanOf (reading nine) ownCard.tag = none ∧ ownCard.tag.station = nine.cfl.station
    ∧ otherCard.tag.station ≠ nine.cfl.station ∧ nine.fli.txState ≠ .muted ∧ nine.fli.queue.length ≤ 15
    ∧ shelfOf (reading nine) 3 = none
    ∧ (∀ n ∈ [254, 255], (shelfOf (reading (shelved n 0)) 3).map (·.owned) = some n)
    ∧ ∀ r, (reading nine).rti.lastCard ≠ some (ownCard, r) := by
  refine ⟨by decide +kernel, by decide +kernel, by decide +kernel, by decide, by decide, by decide +kernel,
    by decide +kernel, by decide, by decide, by decide, by decide +kernel, by decide, by decide +kernel,
    fun r h => (by cases h)⟩

/-- R180: a stray part 1 of a title on the shelf adds a copy; part 2 adds none. -/
theorem test_strayPart : (shelfOf (after (.cardImageComplete 0 (faceBits (ownPart 1))) (reading (shelved 1 0))) 3).map (·.owned)
      = some 2
    ∧ (shelfOf (after (.cardImageComplete 0 (faceBits (ownPart 2))) (reading (shelved 1 0))) 3).map (·.owned) = some 1 := by
  decide +kernel

/-- R177, R180, R181: an own return closes its loan; another station's card is notified by RETURN. -/
theorem test_cardImageComplete :
    (after (.cardImageComplete 0 (faceBits ownCard)) (reading (lending (loan .out cartBody)))).lu.loans = []
    ∧ (after (.cardImageComplete 0 (faceBits otherPart)) (reading nine)).rti.route = some .transfer
    ∧ (after (.cardImageComplete 0 (faceBits otherPart)) (reading nine)).fli.queue = [returnFrame ⟨5, 4712⟩ [] true] := by
  decide +kernel

/-- Station 9 with one copy of title 3 away from the shelf, the second part of its set on loan, and the tag keyed. -/
def keying (l : Loan) (owned onShelf : Nat) : State :=
  tagged { lending l with shu := { nine.shu with
    shelf := [(0, { title := 3, perCopy := 6, owned := owned, onShelf := onShelf, reserved := 0, mark := false })] } }

/-- Cartridge 100 in a state, in no socket. -/
def offRack (st : CartState) (link : Option Nat) : State :=
  { sized with cp := { records := [(0, { pooled st with socket := none, link := link })], stamp := 0 } }

theorem witness_KeyedReturnClosesTheLoan :
    (∀ b ∈ [cartBody, brailleBody 1],
      loanOf (taking 10 (keying (loan .out b) 1 0)) (argTag (takenBy 10 (keying (loan .out b) 1 0))) = some (loan .out b)
      ∧ (taking 10 (keying (loan .out b) 1 0)).pp.slot = .executing (takenBy 10 (keying (loan .out b) 1 0))
      ∧ (takenBy 10 (keying (loan .out b) 1 0)).byte = 0#4 ++ 10#4
      ∧ (loan .out b).tag.station = nine.cfl.station ∧ (loan .out b).state ≠ .carded)
    ∧ (∀ x ∈ [(1, 0), (254, 254), (255, 255)], (shelfOf (keying (loan .out (brailleBody 1)) x.1 x.2) 3).map
        (fun e => (e.owned, e.onShelf)) = some x)
    ∧ shelfOf (tagged (lending (loan .out (brailleBody 1)))) 3 = none ∧ Table.firstFree 1024 nine.shu.shelf = some 0
    ∧ (∀ e ∈ ([] : Table Loan), e.2.body.copySet? ≠ some (⟨9, 4711⟩ : LoanTag))
    ∧ (loan .out (brailleBody 2)).body.copySet? = some ⟨9, 4711⟩
    ∧ (⟨5, 1⟩ : LoanTag).station ≠ nine.cfl.station ∧ loanOf (taking 10 nine) (argTag (takenBy 10 nine)) = none
    ∧ (loanOf (lending (loan .carded cartBody)) ⟨9, 4711⟩).map (·.state) = some .carded
    ∧ (∀ st ∈ [CartState.out, .blank, .dirty, .missing, .returned, .ready, .written, .packed, .faulted, .retired],
      ∀ l ∈ [none, some 0], (cartOf (offRack st l) 100).map (fun r => (r.state, r.socket, r.link)) = some (st, none, l))
    ∧ cartOf nine 100 = none ∧ Table.firstFree 512 nine.cp.records = some 0 := by decide +kernel

/-- R121: an unknown serial at the chute becomes a Returned record; an Out cartridge loses its link. -/
theorem test_chuteEntry : (cartOf (chuteEntry nine 100) 100).map (·.state) = some .returned
    ∧ (cartOf (chuteEntry (offRack .out (some 0)) 100) 100).map (fun r => (r.state, r.link)) = some (.returned, none)
    ∧ chuteEntry (offRack .ready none) 100 = offRack .ready none := by decide +kernel

/-- R178, R183: the keyed return of the only part brings the copy home. -/
theorem test_returnKeyed : (shelfOf (after (.returnKeyed 0 .act) (taking 10 (keying (loan .out (brailleBody 1)) 1 0))) 3).map (·.onShelf)
    = some 1 := by decide +kernel

/-! ## The panel port -/

/-- The pointer on a table. -/
def pointing (t : Byte) (offset : Nat) (s : State) : State :=
  { s with pp := { s.pp with pointer := { table := t, index := 0, offset := offset } } }

theorem witness_DataReadsFollowThePointer :
    (∀ o ∈ [0, 2, 3], (pointing 0 o State.reset).pp.pointer.table = 0 ∧ (pointing 0 o State.reset).pp.pointer.offset = o
      ∧ (pointing 0 o State.reset).pp.events = [.laneBlocked .dayUnknown])
    ∧ nine.pp.events = [] ∧ (∀ t ∈ [(1 : Byte), 14], 1 ≤ t.toNat ∧ t.toNat ≤ 14) ∧ 14 < (15 : Byte).toNat
    ∧ nine.pp.events.length < 32 ∧ 32 ≤ (List.replicate 32 Event.numberClash).length := by decide +kernel

theorem witness_DataReadsFollowThePointer_records :
    (auctioning bidding).au.entries.at? 0 = some bidding ∧ (working [work]).wq.records[0]? = some work
    ∧ sized.wq.plan.at? 0 = some planned ∧ (holding 9140).shu.holds[0]? = some (offeredHold 9140)
    ∧ sized.cp.records.at? 0 = some (pooled .assigned) ∧ ((shelved 1 0).shu.shelf.at? 0).isSome
    ∧ (lending (loan .out cartBody)).lu.loans.at? 0 = some (loan .out cartBody) ∧ nineHolding.isc.directory.at? 0 = some onHand
    ∧ (nineHolding.isc.chains.at? 0).isSome ∧ sized.de.sockets.at? 3 = some (busy .headerWrite 1 none false)
    ∧ (binned 40 .empty).mlc.bins[3]? = some (bin 40)
    ∧ nine.au.entries.at? 0 = none ∧ nine.wq.records[0]? = none ∧ nine.wq.plan.at? 0 = none ∧ nine.shu.holds[0]? = none
    ∧ nine.cp.records.at? 0 = none ∧ nine.shu.shelf.at? 0 = none ∧ nine.lu.loans.at? 0 = none
    ∧ nine.isc.directory.at? 0 = none ∧ nine.isc.chains.at? 0 = none ∧ nine.cfl.settings.rules[0]? = none
    ∧ nine.de.sockets.at? 3 = none ∧ nine.mlc.manifest.length ≤ 0 ∧ Table.wf 64 nine.mlc.manifest = true
    ∧ (let u := after (.sackChanged 0 .act) (taking 6 (binned 40 .empty))
       (((List.range 64).filterMap (fun j => u.mlc.manifest.at? ((u.mlc.writePos + j) % 64)))[0]?).map (·.count) = some 40)
    ∧ ({ nine.cfl.settings with rules := [⟨.zone, .inside, 0, 999, 3⟩] }.rules[0]?) = some ⟨.zone, .inside, 0, 999, 3⟩ := by decide +kernel

/-- R202, R18: the record window of the auction entry: order serial, and the own BID sent. -/
theorem test_window : (windowRecord (auctioning bidding) 2 1).take 4 = bytesLE 4 0x12A3C
    ∧ (windowRecord (auctioning bidding) 2 1).getD 75 0 = 3 := by decide +kernel

/-- R187, R188: the fourth byte of the head event pops it; a pointer write sets an index out of range to 0. -/
theorem test_eventRead : (after (.eventRead 0) (pointing 0 3 State.reset)).pp.events = []
    ∧ (after (.eventRead 0) (pointing 0 0 State.reset)).pp.prefetch = 8 := by decide +kernel
theorem test_pointerWrite : (after (.pointerWrite 0 12) (asked 13 0 0 0 nine)).pp.pointer.index = 0
    ∧ (after (.pointerWrite 0 12) (asked 12 0 0 0 nine)).pp.pointer.index = 12 := by decide +kernel

/-- R202: the second data read brings the first byte of the station record, the station number. -/
theorem test_recordWindowRead : (after (.recordWindowRead 0) (after (.recordWindowRead 0) (pointing 1 0 nine))).pp.dataOut
    = 9 := by decide +kernel

theorem witness_CommandsAreTakenOrRefused : nine.cfl.phase = .running ∧ nine.pp.slot = .idle
    ∧ startingNine.cfl.phase = .blocks ∧ (taking 0x33 nine).pp.slot ≠ .idle
    ∧ (∀ b ∈ [1, 2], (taking b nine).pp.slot = .executing (takenBy b nine) ∧ (takenBy b nine).byte.toNat % 16 = b.toNat)
    ∧ (takenBy 1 nine).byte = 0#4 ++ 1#4 ∧ (takenBy 2 nine).byte = 0#4 ++ 2#4
    ∧ ∀ w, (taking 1 nine).pp.slot = .executing w → w.byte.toNat % 16 ≠ (2#4).toNat := by
  refine ⟨by decide, by decide, by decide, by decide, by decide, by decide, by decide, fun w h => ?_⟩
  cases h
  decide

/-- R190: a write while a command executes is ignored and flagged, the byte kept; the command goes on with the argument
bytes of its own write. -/
theorem test_refusedWrite :
    let u := after (.refusedWrite 0 2) (after (.registerWrite 0 (.argument 0) 9) (after (.shelfWithdraw 0 (.write 0)) (shelved 1 0)))
    u.pp.refusedWrite = true ∧ u.pp.command = 2 ∧ (panelRead u 0).getLsbD 2 = true
      ∧ (after (.shelfWithdraw 0 .act) u).shu.shelf = [] ∧ (after (.pause 0 .act) u).pp.outcome = .none := by decide +kernel

/-- R190, R192: Pause is taken and then accepted; code 0 names no command; before the start is over no write is taken. -/
theorem test_pause : (let u := after (.pause 0 (.write 0)) nine
      u.pp.pause = false ∧ u.pp.slot = .executing (takenBy 1 nine) ∧ (after (.pause 0 .act) u).pp.pause = true
        ∧ (after (.pause 0 .act) u).pp.outcome = .accepted)
    ∧ (after (.commandCodeUnknown 0 .c0 0) nine).pp.outcome = .refused
    ∧ (after (.pause 0 (.write 0)) startingNine).pp.refusedWrite = true := by decide +kernel

/-! ## Further witnesses -/

/-- A FETCH of stream 0, which is Asking, and an INFO of serve stream 0 stand at the head of the control queue. -/
def asking : FetchStream := { stream [2, 3] with state := .asking, silence := none, retryAt := none }
def sendingHead (f : Frame) (s : State) : State :=
  { s with fli := { s.fli with sending := some .control, queue := [f] } }
def fetchSending : State :=
  let s := nineFetching 0 [2, 3]
  sendingHead (fetchFrame 2 ⟨1, 1⟩ 40 60) { s with isc := { s.isc with fetch0 := asking } }
def infoSending : State :=
  sendingHead (infoFrame 2 ⟨3, 1⟩ 1 .present)
    { nineHolding with isc := { nineHolding.isc with serve0 := some { serving with infoSent := false } } }

theorem witness_SendingEndsByCollisionOrCompletion_notes :
    (fetchSending.fli.sending = some .control ∧ fetchSending.fli.queue = [fetchFrame 2 ⟨1, 1⟩ 40 60]
      ∧ (fetchOf fetchSending 0).state = .asking ∧ (fetchOf fetchSending 0).image = some ⟨1, 1⟩
      ∧ streamSource fetchSending 0 = some 2 ∧ (fetchOf fetchSending 1).state ≠ .asking)
    ∧ (infoSending.fli.queue = [infoFrame 2 ⟨3, 1⟩ 1 .present] ∧ (serveOf infoSending 0).isSome ∧ serveOf infoSending 1 = none)
    ∧ (∀ b ∈ [Producer.au, .wq, .isc, .shu, .lu, .rti], heldOf b fetchSending = [] ∧ heldOf b infoSending = []) := by
  decide +kernel

/-- R78: the silence timer runs from the completion of the FETCH; R85: the stream may send once its INFO is complete. -/
theorem test_frameComplete_notes : (fetchOf (after (.frameComplete 5) fetchSending) 0).silence = some 16000005
    ∧ (serveOf (after (.frameComplete 5) infoSending) 0).map (·.infoSent) = some true := by decide +kernel

/-- At rank 0 there is no room in the plan store. -/
def noRoom : State := { auctioning bidding with wq := (planning 127).wq }

theorem witness_TakeFreesTheEntry_declined : auctionOf noRoom 0x12A3C = some bidding
    ∧ freeSlots noRoom < (offerPlan noRoom bidding.offer).length
    ∧ (∀ b ∈ [Producer.wq, .isc, .shu, .lu, .rti], heldOf b noRoom = []) ∧ noRoom.au.held = [] := by decide +kernel

/-- R35: a take declined at rank 0 leaves no record, no entry and no frame. -/
theorem test_windowClose_declined : let u := after (.windowClose 1280000 0x12A3C) noRoom
    u.au.declined = 1 ∧ u.au.entries = [] ∧ u.wq.records = [] ∧ u.fli.queue = [] := by decide +kernel

/-- The own BID stands in the queue, and another at AU, behind a frame of another kind. -/
def bidWaiting : State :=
  let b := bidFrame 0x12A3C 922 13 ⟨0, 4, 2⟩
  { auctioning bidding with
    au := { (auctioning bidding).au with held := [b] }
    fli := { nine.fli with queue := [offerFrom0, b] } }

theorem witness_OrdersEndByFrames_bid : auctionOf bidWaiting 0x12A3C = some bidding
    ∧ (∀ b ∈ [Producer.wq, .isc, .shu, .lu, .rti], heldOf b bidWaiting = [])
    ∧ (∀ g ∈ bidWaiting.au.held, g.kind = .bid ∧ g.subject = 0x12A3C)
    ∧ (∀ d ∈ [0, 7, 8, 254], ({ takeOf7 5 with detail := BitVec.ofNat 32 d }).detail.toNat % 256 ≠ 255)
    ∧ (∀ x ∈ [((5 : Byte), Machine.Outcome.failed), (6, .writtenOff)],
      readClosed { closedOf7 x.1 with subject := 0x12A3C } = some x.2)
    ∧ ({ closedOf7 6 with subject := 0x12A3C } : Received).detail.toNat % 256 = 255 := by decide +kernel

/-- R38, R16: a whole-order TAKE drops the entry and withdraws its BIDs; an item TAKE drops nothing. R43, R156: AU does
not act on a CLOSED(WrittenOff), as it does on a CLOSED(Mailed). -/
theorem test_takeDropsTheEntry :
    (let u := hearTake { takeOf7 5 with subject := 0x12A3C } bidWaiting
     u.au.entries = [] ∧ u.au.held = [] ∧ u.fli.queue = [offerFrom0])
    ∧ (hearTake { takeOf7 5 with subject := 0x12A3C, detail := 2 } bidWaiting).au.entries.length = 1
    ∧ (hearClosed { closedOf7 6 with subject := 0x12A3C } bidWaiting).au = bidWaiting.au
    ∧ (hearClosed { closedOf7 1 with subject := 0x12A3C } bidWaiting).au.entries = [] := by decide +kernel

/-- A hold of the day stands, and the sequence counter has `n`. -/
def heldBefore (n : Nat) : State :=
  let s := auctioning brailleOnly
  { s with shu := { s.shu with holds := [{ waitingHold 0 with placed := some 9131, seq := n }], seq := n } }

theorem witness_TakenOrdersEnterTheQueue_holds : ∀ n ∈ [4, 4294967295],
    acceptsTake (heldBefore n) brailleOnly.offer = true ∧ (heldBefore n).tablesSound
      ∧ (∀ h ∈ (heldBefore n).shu.holds, h.seq ≤ 4294967295) ∧ (heldBefore n).shu.holds.length = 1
      ∧ holdOf (heldBefore n) 0x12A3C 1 = none := by decide +kernel

/-- R133: the new hold takes the next sequence, which stops at 4294967295, and stands behind the hold of its day. -/
theorem test_holdSequence : ∀ n ∈ [4, 4294967295],
    (acceptTake brailleOnly (heldBefore n)).shu.holds.map (fun h => (h.order, h.item, h.seq))
      = [(7, 0, n), (0x12A3C, 1, min 4294967295 (n + 1))] := by decide +kernel

/-- R82: a third failure on a sector turns to the next source, an earlier one asks the same again. -/
theorem test_failStream : (failStream 0 (nineFetching 2 [2, 3])).fli.queue = [fetchFrame 3 ⟨1, 1⟩ 40 60]
    ∧ (failStream 0 (nineFetching 1 [2, 3])).fli.queue = [fetchFrame 2 ⟨1, 1⟩ 40 60] := by decide +kernel

/-- R70: with chunks 0 and 1 owned, two more are the chunks 2 and 3, in that order. -/
theorem test_allocate : (allocate 5 2 { nineFetching 0 [] with isc := { (nineFetching 0 []).isc with
      directory := [(0, fetching 0), (5, { fetching 0 with name := ⟨9, 1⟩, head := none })] } }).map
    (fun v => (v.isc.chains.map (fun c => (c.1, c.2.owner, c.2.next)), (dirAt v 5).map (·.head)))
    = some ([(0, 0, some 1), (1, 0, none), (2, 5, some 3), (3, 5, none)], some (some 2)) := by decide +kernel

theorem witness_StoreReadsAreServedAndChecked_scrub : nineHolding.tablesSound
    ∧ (dirAt nineHolding 0 = some onHand ∧ onHand.state = .present ∧ 0 < onHand.size
      ∧ chunkAt nineHolding.isc.chains (0 / 64) onHand.head = some 0)
    ∧ nineHolding.isc.scrubCursor < 64 * nineHolding.cfl.settings.storeChunks := by decide +kernel

/-- R86: from cursor 5 the stored sector 0 is reached round the end of the capacity of 65536 sectors. -/
theorem test_scrubDistance : let s := { nineHolding with isc := { nineHolding.isc with scrubCursor := 5 } }
    scrubDistance s 0 = 65531 ∧ nextScrub s = some (0, 0) := by decide +kernel

/-- A hold older than the hold life, with a copy set aside, its item Held in the standing record. -/
def lapsing : State :=
  { serving3 1 true [bundled 7 .held] with
    shu := { (serving3 1 true []).shu with holds := [{ waitingHold 0 with placed := some 9040, setAside := true }] } }

theorem witness_DayAndReturnKeepTheLoans_lapse : lapsing.tablesSound
    ∧ (lapsing.shu.holds.filter (fun h => h.offered.isNone && h.placed.any (fun p =>
        lapsing.lu.dayKnown && decide (lapsing.cfl.settings.holdLife < lapsing.lu.day - p)))).length = 1
    ∧ lapsing.pp.events.length + 1 ≤ 32 ∧ lapsing.fli.txState ≠ .muted ∧ lapsing.fli.queue.length + 1 ≤ 16
    ∧ (∀ n ∈ [17, 33], (tagGroups n (List.replicate n ⟨9, 1⟩)).map List.length = List.replicate (n / 16) 16 ++ [1]) := by
  decide +kernel

/-- R142, R64: the hold lapses with its event, its frame and its copy, and the item is Cancelled. -/
theorem test_lapseScan : let u := lapseScan lapsing
    u.shu.holds = [] ∧ u.pp.events = [.holdLapsed 7 0] ∧ u.fli.queue = [closedFrame 7 0 .lapsed []] ∧ u.shu.due = [3]
      ∧ u.wq.records.map (fun r => r.items.map (·.state)) = [[.cancelled]]
      ∧ (shelfOf u 3).map (·.reserved) = some 0 := by decide +kernel

/-- R166: the fields of a cartridge container of two, of a braille part of four volumes, and of an urgent order. -/
theorem test_ruleFields :
    ruleFields (laning .idle .done .empty) ⟨9, 4711⟩ = { zone := 140, kind := 0, weight := 2, urgency := 0 }
    ∧ ruleFields (partLane .carded .empty) ⟨9, 4711⟩ = { zone := 140, kind := 1, weight := 4, urgency := 0 }
    ∧ (ruleFields { laning .idle .done .empty with wq := { nine.wq with records := [{ work with urgency := .urgent }] } }
        ⟨9, 4711⟩).urgency = 1 := by decide +kernel

theorem witness_HeaderIdentifiesTheCartridge_elsewhere : ∀ st ∈ [SocketState.identifying, .holding, .busy, .refused],
    let s := { nine with de := { nine.de with sockets := [(2, { fresh with serial := some 100, state := st }), (3, fresh)] } }
    Table.wf 8 s.de.sockets = true ∧ (serialElsewhere s 3 100 = true ↔ st ≠ .refused) ∧ serialElsewhere s 2 100 = false := by
  decide +kernel

/-- R175: station 16, kind 2, no serials, part 3 of 2, a range one volume late, and a foreign copy set are all of wrong
format; the largest ranges are not. -/
theorem test_readCard_format :
    (∀ c ∈ [({ ownCard with body := .cartridge [] } : Card), { ownCard with body := .braille 3 ⟨9, 4711⟩ 3 2 9 12 },
        { ownCard with body := .braille 3 ⟨9, 4711⟩ 1 2 2 4 }, { ownCard with body := .braille 3 ⟨9, 4711⟩ 1 2 1 5 },
        { ownCard with body := .braille 3 ⟨8, 4711⟩ 1 2 1 4 }],
      readCard (returnFace c) = .unreadable .format)
    ∧ readCard ((returnFace ownCard).set 5 2) = .unreadable .format
    ∧ readCard ((bcdBytes 5 1600000017) ++ (returnFace ownCard).drop 5) = .unreadable .checkDigit
    ∧ readCard ((bcdBytes 5 1600000018) ++ (returnFace ownCard).drop 5) = .unreadable .format
    ∧ readCard (returnFace { ownCard with body := .braille 3 ⟨9, 4711⟩ 3 3 9 12 })
      = .card { ownCard with body := .braille 3 ⟨9, 4711⟩ 3 3 9 12 } := by decide +kernel

/-- R113, R127: a cartridge pulled out of the last socket that a start waits for ends the start. -/
theorem test_cartridgeRemove_endsStart :
    let s := { identifying startingNine with
      de := { (identifying nine).de with unidentified := [3] }
      cp := { records := [(0, readyCart 100)], stamp := 0 } }
    let u := after (.cartridgeRemove 0 3) s
    u.cfl.phase = .running ∧ (cartOf u 100).map (·.state) = some .blank ∧ u.de.sockets = [] := by decide +kernel

/-- A station with the marker of station 1, a Writing and an Assigned cartridge, and bundles in every state. -/
def busyRecord : WorkRecord :=
  { writing with bundles :=
      [⟨1, [], .producing, []⟩, ⟨2, [⟨3, some .picked, none⟩], .written, []⟩, ⟨3, [⟨4, some .picked, none⟩], .packing, []⟩,
       ⟨4, [], .laned, []⟩, ⟨5, [], .mailed, []⟩, ⟨6, [⟨5, none, none⟩], .waiting, []⟩, ⟨7, [], .producing, []⟩] }
def restarting : State :=
  let s := marked .writing
  { s with
    wq := { s.wq with
      records := [busyRecord]
      plan := [(0, { planned with loadAsked := true }), (1, { planned with bundle := 7, link := some 102, loadAsked := true }),
        (2, { planned with bundle := 4, link := some 101, written := true })] }
    cp := { records := [(0, pooled .writing), (2, { readyCart 101 with state := .packed }), (5, { readyCart 103 with state := .assigned }),
      (7, readyCart 102)], stamp := 0 } }

/-- The state that phase 3 of its warm reset leaves. -/
def restarted : State := recordPhase true (raiseConfigFaults (inputs 1) (startPanel (inputs 1) restarting))

theorem witness_WarmResetGoesByTheMarker_bundles : restarting.cfl.marker = markerOf (inputs 1) ∧ restarting.tablesSound
    ∧ recordOf restarting 7 = some busyRecord := by decide +kernel

/-- R69, R52, R173: the bundles that were not packed are set anew, with their picks; R116, R127: stamps by position. -/
theorem test_recordPhase_kept :
    (recordOf restarted 7).map (fun r => r.bundles.map (fun b => (b.state, b.riders.map (·.pick))))
      = some [(.waiting, []), (.written, [some .picked]), (.packing, [some .picked]), (.laned, []), (.mailed, []),
          (.written, [some .pending]), (.producing, [])]
    ∧ restarted.cp.records.map (fun e => (e.1, e.2.state, e.2.stamp))
      = [(0, .dirty, 1), (2, .packed, 0), (5, .dirty, 2), (7, .ready, 0)] ∧ restarted.cp.stamp = 2
    ∧ restarted.wq.plan.map (fun e => (e.2.link, e.2.loadAsked)) = [(none, false), (some 102, true), (some 101, false)]
    ∧ restarted.pp.events = [.pickList 0 5] ∧ restarted.de = De.start := by decide +kernel

/-- R199: a warm reset that finds the marker broken completes as well, and waits for the cartridge in socket 3. -/
theorem test_warmReset_completes : ∀ s ∈ [restarting, nine],
    (after (.warmReset 0 { inputs 1 with present := [3] }) s).cfl.phase = .blocks
      ∧ (after (.warmReset 0 (inputs 1)) s).cfl.phase = .running := by decide +kernel

end Sys2Proof.Tests
end

/-! PROOFS of chapter 2, offers, bids and takes: the order of precedence between two prices (R31). -/

namespace Sys2Proof.Machine

/-! ## The tiebreak key -/

theorem keyOf_toNat (station : Station) (order : OrderSerial) :
    (keyOf station order).toNat = (station.toNat + 16 - order.toNat % 16) % 16 := by
  rw [keyOf, BitVec.toNat_sub, BitVec.truncate_eq_setWidth, BitVec.toNat_setWidth]
  omega

theorem keyOf_injective (order : OrderSerial) : Function.Injective (keyOf · order) := sub_left_injective

/-! ## Precedence -/

theorem goesBefore_iff (p q : Nat × BitVec 4) :
    goesBefore p q = true ↔ p.1 < q.1 ∨ (p.1 = q.1 ∧ p.2.toNat < q.2.toNat) := by
  simp [goesBefore]

theorem goesBefore_irrefl (p : Nat × BitVec 4) : goesBefore p p = false := by
  simp [goesBefore]

/-- Precedence decides between any two different prices, one way only. -/
theorem goesBefore_iff_not_swap {p q : Nat × BitVec 4} (hne : p ≠ q) :
    goesBefore p q = true ↔ goesBefore q p = false := by
  have apart : p.1 = q.1 → p.2.toNat ≠ q.2.toNat :=
    fun hcost hkey => hne (Prod.ext hcost (BitVec.eq_of_toNat_eq hkey))
  rw [← Bool.not_eq_true, goesBefore_iff, goesBefore_iff]
  omega

/-- What the own price does not go before: a price that goes before it, and its equal, to which the station yields. -/
theorem not_goesBefore_eq (own other : Nat × BitVec 4) :
    (!goesBefore own other) = (goesBefore other own || other == own) := by
  by_cases heq : other = own
  · simp [heq, goesBefore_irrefl]
  · rw [beq_false_of_ne heq, Bool.or_false, Bool.eq_iff_iff, goesBefore_iff_not_swap heq, Bool.not_eq_true']

/-! ## Yielding to an equal bid or TAKE -/

theorem ownRank_counts_equal (e : AuctionEntry) :
    ownRank e = (e.heard.filter (fun h =>
      goesBefore (h.cost, h.key) (e.cost, e.key) || (h.cost, h.key) == (e.cost, e.key))).length := by
  simp only [ownRank, not_goesBefore_eq]

theorem compareTake_of_prices {f : Received} {s : State} {own other : Nat × BitVec 4}
    (hown : takenRecordOf s f.subject = some own) (hother : readPrice f = some other) :
    compareTake f s = if goesBefore own other then offerFrame .au (takeFrame f.subject 255 own.1 own.2) s
      else abandonOrder f.subject s := by
  simp only [compareTake, hown, hother]

theorem compareTake_equal {f : Received} {s : State} {p : Nat × BitVec 4}
    (hown : takenRecordOf s f.subject = some p) (hother : readPrice f = some p) :
    compareTake f s = abandonOrder f.subject s := by
  simp [compareTake_of_prices hown hother, goesBefore_irrefl]

/-- Settles O22: precedence is the lexicographic order of cost and key, which is total and irreflexive. -/
theorem precedenceIsByCostThenKey : Obligations.PrecedenceIsByCostThenKey :=
  ⟨keyOf_toNat, fun _ _ order hne => (keyOf_injective order).ne hne, fun c d j k => goesBefore_iff (c, j) (d, k),
    fun _ _ => goesBefore_iff_not_swap, ownRank_counts_equal, fun _ _ _ => compareTake_equal⟩

end Sys2Proof.Machine

/-! PROOFS of chapter 5, the duplicator rack: the choice of a cartridge for a planned cartridge (R100). -/

namespace Sys2Proof.Machine

/-! ## Sorting by a key -/

theorem sortBy.place_perm {α : Type} (key : α → Nat) (x : α) : ∀ ys : List α, (sortBy.place key x ys).Perm (x :: ys)
  | [] => .refl _
  | y :: ys => by
    unfold sortBy.place
    split
    · exact ((sortBy.place_perm key x ys).cons y).trans (.swap x y ys)
    · exact .refl _

theorem sortBy_perm {α : Type} (key : α → Nat) : ∀ l : List α, (sortBy key l).Perm l
  | [] => .refl _
  | x :: xs => (sortBy.place_perm key x _).trans ((sortBy_perm key xs).cons x)

theorem mem_sortBy {α : Type} {key : α → Nat} {l : List α} {x : α} : x ∈ sortBy key l ↔ x ∈ l :=
  (sortBy_perm key l).mem_iff

/-- The order of a stable sort: by key, and by the order `r` of the list where the keys are equal. -/
def ByKeyThen {α : Type} (key : α → Nat) (r : α → α → Prop) (a b : α) : Prop :=
  key a < key b ∨ key a = key b ∧ r a b

theorem sortBy.place_pairwise {α : Type} {key : α → Nat} {r : α → α → Prop} {x : α} : ∀ {ys : List α},
    ys.Pairwise (ByKeyThen key r) → (∀ y ∈ ys, r x y) → (sortBy.place key x ys).Pairwise (ByKeyThen key r)
  | [], _, _ => List.pairwise_singleton _ x
  | y :: ys, sorted, first => by
    obtain ⟨above, sortedTail⟩ := List.pairwise_cons.1 sorted
    unfold sortBy.place
    split
    case isTrue lower =>
      refine List.pairwise_cons.2
        ⟨fun z hz => ?_, sortBy.place_pairwise sortedTail fun z hz => first z (List.mem_cons_of_mem y hz)⟩
      obtain rfl | hz := List.mem_cons.1 ((sortBy.place_perm key x ys).mem_iff.1 hz)
      · exact .inl lower
      · exact above z hz
    case isFalse notLower =>
      refine List.pairwise_cons.2 ⟨fun z hz => ?_, sorted⟩
      have notBelow : key x ≤ key z := by
        obtain rfl | hz := List.mem_cons.1 hz
        · omega
        · obtain lt | ⟨eq, _⟩ := above z hz <;> omega
      exact notBelow.lt_or_eq.imp_right fun eq => ⟨eq, first z hz⟩

/-- The sort is rising and stable. -/
theorem sortBy_pairwise {α : Type} {key : α → Nat} {r : α → α → Prop} : ∀ {l : List α},
    l.Pairwise r → (sortBy key l).Pairwise (ByKeyThen key r)
  | [], _ => .nil
  | _ :: _, h =>
    have ⟨first, rest⟩ := List.pairwise_cons.1 h
    sortBy.place_pairwise (sortBy_pairwise rest) fun y hy => first y (mem_sortBy.1 hy)

/-- The head of a sorted list has the lowest key, and comes first in the list among those of that key. -/
theorem sortBy_head? {α : Type} {key : α → Nat} {r : α → α → Prop} {l : List α} {x : α} (h : l.Pairwise r)
    (hx : (sortBy key l).head? = some x) : x ∈ l ∧ ∀ y ∈ l, y = x ∨ ByKeyThen key r x y := by
  obtain ⟨ys, hys⟩ := List.head?_eq_some_iff.1 hx
  have mem : ∀ y, y ∈ l ↔ y = x ∨ y ∈ ys := fun y => by rw [← mem_sortBy (key := key), hys, List.mem_cons]
  have sorted := sortBy_pairwise (key := key) h
  rw [hys, List.pairwise_cons] at sorted
  exact ⟨(mem x).2 (.inl rfl), fun y hy => ((mem y).1 hy).imp_right (sorted.1 y)⟩

theorem sortBy_head?_none {α : Type} {key : α → Nat} {l : List α} : (sortBy key l).head? = none ↔ l = [] := by
  rw [List.head?_eq_none_iff, ← List.length_eq_zero_iff, (sortBy_perm key l).length_eq, List.length_eq_zero_iff]

/-! ## Which cartridges fit -/

theorem fits_iff (pc : PlannedCart) (cls e : Nat) : fits pc cls e = true ↔
    2 ^ e + (pc.placements.map (fun p => (p.length + 2 ^ e - 1) / 2 ^ e * 2 ^ e)).sum ≤ capacityOf cls :=
  decide_eq_true_iff

/-- What one socket offers a planned cartridge: its number with its cartridge's record, when that fits. -/
def fitIn (s : State) (pc : PlannedCart) (k : SocketNo) : Option (SocketNo × CartRecord) :=
  match socketOf s k, cartIn s k with
  | some e, some r => if e.state = .holding && r.state = .ready && fits pc r.capClass r.e then some (k, r) else none
  | _, _ => none

theorem fittingSockets_eq (s : State) (pc : PlannedCart) :
    fittingSockets s pc = (List.finRange 8).filterMap (fitIn s pc) := rfl

theorem fitIn_eq_some {s : State} {pc : PlannedCart} {j k : SocketNo} {r : CartRecord} :
    fitIn s pc j = some (k, r) ↔ j = k ∧ (∃ e, socketOf s k = some e ∧ e.state = .holding) ∧ cartIn s k = some r
      ∧ r.state = .ready ∧ fits pc r.capClass r.e = true := by
  unfold fitIn
  split
  case h_1 e r' he hr =>
    constructor
    · intro h
      obtain ⟨⟨⟨holding, ready⟩, fit⟩, rfl, rfl⟩ := by simpa using h
      exact ⟨rfl, ⟨e, he, holding⟩, hr, ready, fit⟩
    · rintro ⟨rfl, ⟨e', he', holding⟩, hr', ready, fit⟩
      cases he.symm.trans he'
      cases hr.symm.trans hr'
      simp [holding, ready, fit]
  case h_2 missing =>
    refine ⟨nofun, ?_⟩
    rintro ⟨rfl, ⟨e, he, _⟩, hr, _⟩
    exact (missing e r he hr).elim

theorem mem_fittingSockets {s : State} {pc : PlannedCart} {k : SocketNo} {r : CartRecord} :
    (k, r) ∈ fittingSockets s pc ↔ (∃ e, socketOf s k = some e ∧ e.state = .holding) ∧ cartIn s k = some r
      ∧ r.state = .ready ∧ fits pc r.capClass r.e = true := by
  simp [fittingSockets_eq, fitIn_eq_some]

theorem fittingSockets_pairwise (s : State) (pc : PlannedCart) :
    (fittingSockets s pc).Pairwise (fun x y => x.1 < y.1) := by
  rw [fittingSockets_eq]
  refine (List.pairwise_lt_finRange 8).filterMap _ fun j j' lower x hx y hy => ?_
  obtain ⟨rfl, _⟩ := fitIn_eq_some.1 hx
  obtain ⟨rfl, _⟩ := fitIn_eq_some.1 hy
  exact lower

/-! ## The choice -/

/-- R100: the cartridge chosen fits, and any that fits has a larger class, or the same and no lower socket. -/
theorem chooseCart_some {s : State} {pc : PlannedCart} {k : SocketNo} {r : CartRecord}
    (h : chooseCart s pc = some (k, r)) : (k, r) ∈ fittingSockets s pc ∧ ∀ k' r', (k', r') ∈ fittingSockets s pc →
      r.capClass < r'.capClass ∨ (r.capClass = r'.capClass ∧ k ≤ k') := by
  obtain ⟨chosen, least⟩ := sortBy_head? (fittingSockets_pairwise s pc) h
  refine ⟨chosen, fun k' r' fit => ?_⟩
  obtain eq | smaller | ⟨same, lower⟩ := least _ fit
  · cases eq
    exact .inr ⟨rfl, le_rfl⟩
  · exact .inl smaller
  · exact .inr ⟨same, lower.le⟩

theorem chooseCart_none {s : State} {pc : PlannedCart} :
    chooseCart s pc = none ↔ ∀ k r, (k, r) ∉ fittingSockets s pc := by
  rw [chooseCart, sortBy_head?_none, List.eq_nil_iff_forall_not_mem, Prod.forall]

/-! ## The offer of one planned cartridge -/

theorem conditionOf_unassigned {pc : PlannedCart} (link : pc.link = none) (written : pc.written = false) :
    conditionOf pc = .unassigned := by
  simp [conditionOf, link, written]

/-- An eligible planned cartridge is linked to the cartridge chosen, or a load is asked for (R99, R101, R102). -/
theorem offerCart_eligible {s : State} {slot : Nat} {pc : PlannedCart} (at_slot : s.wq.plan.at? slot = some pc)
    (unassigned : conditionOf pc = .unassigned) (present : imagesPresent s pc = true) :
    offerCart s slot = (chooseCart s pc).elim (askLoad slot pc s) fun x => linkCart slot x.1 x.2 s := by
  simp only [offerCart, at_slot, unassigned, present]
  cases chooseCart s pc <;> rfl

/-- Settles O43: the sockets that fit stand in socket order, which the stable sort by capacity class keeps among equals,
and an eligible planned cartridge is offered to the head of that sort. -/
theorem assignmentChoosesTheSmallestFit : Obligations.AssignmentChoosesTheSmallestFit := by
  refine ⟨fits_iff, fun s pc k r chosen => ?_, fun s pc => ?_, fun s slot pc at_slot link written present => ?_⟩
  · obtain ⟨chosenFits, least⟩ := chooseCart_some chosen
    obtain ⟨holding, cart, ready, fit⟩ := mem_fittingSockets.1 chosenFits
    exact ⟨holding, cart, ready, fit, fun k' e' r' socket' holding' cart' ready' fit' =>
      least k' r' (mem_fittingSockets.2 ⟨⟨e', socket', holding'⟩, cart', ready', fit'⟩)⟩
  · simp only [chooseCart_none, mem_fittingSockets, not_and, Bool.not_eq_true, forall_exists_index, and_imp]
    exact ⟨fun h k e r socket holding => h k r e socket holding, fun h k r e socket holding => h k e r socket holding⟩
  · rw [offerCart_eligible at_slot (conditionOf_unassigned link written) present]
    exact ⟨fun noFit => by rw [noFit, Option.elim_none], fun k r chosen => by rw [chosen, Option.elim_some]⟩

end Sys2Proof.Machine

/-! PROOFS of chapter 7, shelf stock: ShelfAdd (R129) and ShelfWithdraw (R130), each as its block acts on the command
taken (R190). -/

namespace Sys2Proof.Machine

/-! ## The act of a panel command -/

theorem carryOut_accepted {w : TakenCommand} {s u : State} (act : commandAct w s = some u) :
    carryOut w s = endCommand .accepted u := by
  rw [carryOut, act]

theorem carryOut_refused {w : TakenCommand} {s : State} (act : commandAct w s = none) :
    carryOut w s = endCommand .refused s := by
  rw [carryOut, act]

/-- ShelfAdd has its volumes in the byte's high four bits and its copies in argument byte 3 (R191). -/
theorem commandAct_shelfAdd {high : BitVec 4} {w : TakenCommand} (byte : w.byte = high ++ 4#4) (s : State) :
    commandAct w s = (shelfAdd (argTitle w) high.toNat w.arg3.toNat s).map shelfStage := by
  obtain ⟨_, _, _, act, _⟩ := commandAct_byte (high := high) (w := w) s
  rw [act byte, actShelfAdd, byte, highOf_append]

theorem commandAct_shelfWithdraw {high : BitVec 4} {w : TakenCommand} (byte : w.byte = high ++ 5#4) (s : State) :
    commandAct w s = shelfWithdraw (argTitle w) s := by
  obtain ⟨_, _, _, _, act, _⟩ := commandAct_byte (high := high) (w := w) s
  exact act byte

theorem exec_shelfAdd_act {t : Moment} {high : BitVec 4} {w : TakenCommand} {s : State}
    (slot : s.pp.slot = .executing w) (byte : w.byte = high ++ 4#4) :
    exec (.shelfAdd t .act) s = .next (carryOut w (s.at t)) :=
  congrArg Host.Outcome.next (commandEvent_act (s := s.at t) slot byte)

theorem exec_shelfWithdraw_act {t : Moment} {high : BitVec 4} {w : TakenCommand} {s : State}
    (slot : s.pp.slot = .executing w) (byte : w.byte = high ++ 5#4) :
    exec (.shelfWithdraw t .act) s = .next (carryOut w (s.at t)) :=
  congrArg Host.Outcome.next (commandEvent_act (s := s.at t) slot byte)

/-! ## The shelf entry and its free copies -/

@[simp] theorem shelfOf_at (s : State) (t : Moment) (title : Title) : shelfOf (s.at t) title = shelfOf s title :=
  shelfOf_congr rfl title

theorem freeCopies_of_entry {s : State} {title : Title} {e : ShelfEntry} (entry : shelfOf s title = some e) :
    freeCopies s title = e.onShelf - e.reserved := by
  rw [freeCopies, entry]

theorem freeCopies_of_noEntry {s : State} {title : Title} (noEntry : shelfOf s title = none) :
    freeCopies s title = 0 := by
  rw [freeCopies, noEntry]

theorem freeCopies_eq_zero_iff {s : State} {title : Title} :
    freeCopies s title = 0 ↔ ∀ e, shelfOf s title = some e → e.onShelf - e.reserved = 0 := by
  cases entry : shelfOf s title with
  | none => simp [freeCopies_of_noEntry entry]
  | some e => simp [freeCopies_of_entry entry]

/-! ## ShelfAdd (R129) -/

section
variable {title : Title} {volumes copies : Nat} {s : State}

theorem shelfAdd_outOfRange (out : volumes < 1 ∨ 12 < volumes ∨ copies < 1 ∨ 255 < copies) :
    shelfAdd title volumes copies s = none := by
  rw [shelfAdd, if_pos (by simpa [or_assoc] using out)]

theorem shelfAdd_inRange (low : 1 ≤ volumes) (high : volumes ≤ 12) (copies_pos : 1 ≤ copies) (le255 : copies ≤ 255) :
    ¬ (volumes < 1 || 12 < volumes || copies < 1 || 255 < copies) = true := by
  simp only [Bool.or_eq_true, decide_eq_true_eq]
  omega

/-- An entry of other volumes, or one that would own more than 255 copies, takes none. -/
theorem shelfAdd_entryRefuses {e : ShelfEntry} (entry : shelfOf s title = some e)
    (unfit : e.perCopy ≠ volumes ∨ 255 < e.owned + copies) : shelfAdd title volumes copies s = none := by
  rw [shelfAdd, entry]
  split
  · rfl
  · exact if_pos (by simpa using unfit)

theorem shelfAdd_noPosition (noEntry : shelfOf s title = none) (full : Table.firstFree 1024 s.shu.shelf = none) :
    shelfAdd title volumes copies s = none := by
  rw [shelfAdd, noEntry, full]
  exact ite_self none

theorem shelfAdd_toEntry (low : 1 ≤ volumes) (high : volumes ≤ 12) (copies_pos : 1 ≤ copies) {e : ShelfEntry}
    (entry : shelfOf s title = some e) (same : e.perCopy = volumes) (fits : e.owned + copies ≤ 255) :
    shelfAdd title volumes copies s = some (owePass title (changeShelf title
      (fun e => { e with owned := e.owned + copies, onShelf := e.onShelf + copies }) s)) := by
  have takes : ¬ (e.perCopy != volumes || 255 < e.owned + copies) = true := by simp [same, fits]
  rw [shelfAdd, if_neg (shelfAdd_inRange low high copies_pos (by omega)), entry]
  exact if_neg takes

theorem shelfAdd_newEntry (low : 1 ≤ volumes) (high : volumes ≤ 12) (copies_pos : 1 ≤ copies) (le255 : copies ≤ 255)
    {k : Nat} (noEntry : shelfOf s title = none) (free : Table.firstFree 1024 s.shu.shelf = some k) :
    shelfAdd title volumes copies s = some (owePass title { s with shu := { s.shu with
      shelf := Table.put k { title := title, perCopy := volumes, owned := copies, onShelf := copies, reserved := 0,
                             mark := false } s.shu.shelf } }) := by
  rw [shelfAdd, if_neg (shelfAdd_inRange low high copies_pos le255), noEntry, free]

end

/-- Settles O44: each refusal of R129 is a case in which `shelfAdd` answers `none`, and in the two others it answers the
entry changed or put, which the command's act hands to the shelf stage. -/
theorem shelfAddCounts : Obligations.ShelfAddCounts := by
  rintro t high _ _ w _ s slot byte rfl rfl rfl
  rw [exec_shelfAdd_act slot byte]
  have act := commandAct_shelfAdd byte (s.at t)
  refine ⟨fun refusal => ?refused, fun low le12 copies_pos =>
    ⟨fun e entry same fits => ?toEntry, fun k noEntry free => ?newEntry⟩⟩
  case refused =>
    have refused : shelfAdd (argTitle w) high.toNat w.arg3.toNat (s.at t) = none := by
      obtain few | many | noCopies | ⟨e, entry, unfit⟩ | ⟨noEntry, full⟩ := refusal
      · exact shelfAdd_outOfRange (.inl few)
      · exact shelfAdd_outOfRange (.inr (.inl many))
      · exact shelfAdd_outOfRange (.inr (.inr (.inl noCopies)))
      · exact shelfAdd_entryRefuses (by simpa using entry) unfit
      · exact shelfAdd_noPosition (by simpa using noEntry) full
    rw [carryOut_refused (act.trans (by rw [refused, Option.map_none]))]
  case toEntry =>
    have added := shelfAdd_toEntry (s := s.at t) low le12 copies_pos (by simpa using entry) same fits
    rw [carryOut_accepted (act.trans (by rw [added, Option.map_some]))]
    rfl
  case newEntry =>
    have added := shelfAdd_newEntry (s := s.at t) low le12 copies_pos (by have := w.arg3.isLt; omega)
      (by simpa using noEntry) free
    rw [carryOut_accepted (act.trans (by rw [added, Option.map_some]))]
    rfl

/-! ## ShelfWithdraw (R130) -/

theorem shelfWithdraw_noFreeCopy {title : Title} {s : State} (noneFree : freeCopies s title = 0) :
    shelfWithdraw title s = none := by
  rw [shelfWithdraw, if_pos noneFree]

theorem shelfWithdraw_freeCopy {title : Title} {s : State} (free : freeCopies s title ≠ 0) :
    shelfWithdraw title s = some (dropEmptyShelf (changeShelf title
      (fun e => { e with owned := e.owned - 1, onShelf := e.onShelf - 1 }) s)) := by
  rw [shelfWithdraw, if_neg free]

/-- Settles O45: `shelfWithdraw` turns on the free copies, of which a title without an entry has none (R128). -/
theorem shelfWithdrawTakesAFreeCopy : Obligations.ShelfWithdrawTakesAFreeCopy := by
  rintro t high _ w _ s slot byte rfl rfl
  rw [exec_shelfWithdraw_act slot byte]
  have act := commandAct_shelfWithdraw byte (s.at t)
  refine ⟨fun noneFree => ?_, fun e entry unreserved => ?_⟩
  · have refused := shelfWithdraw_noFreeCopy (freeCopies_eq_zero_iff (s := s.at t) |>.2 (by simpa using noneFree))
    rw [carryOut_refused (act.trans refused)]
  · have free : freeCopies (s.at t) (argTitle w) ≠ 0 := by
      rw [freeCopies_of_entry (e := e) (by simpa using entry)]
      omega
    rw [carryOut_accepted (act.trans (shelfWithdraw_freeCopy free))]
    rfl

end Sys2Proof.Machine
